-- ==== Sys2Proof/Word.lean ====
section
/-! DEFINITION. The word types of the TM1637_PICO protocol engine: bytes and line levels. -/

namespace Sys2Proof

/-- A byte: a segment byte, a command byte, a character code or a u8 argument (00_scope.md R13). -/
abbrev Byte := BitVec 8

/-- The level of a digital line, 0 or 1 (10_state.md R26). -/
inductive Level where
  | low
  | high
  deriving DecidableEq, Repr, Inhabited

/-- The level that carries a bit: 1 is high (40_protocol.md R108, `dio(b[i])`). -/
def Level.ofBit (b : Bool) : Level := if b then .high else .low

/-- The bit a level carries. -/
def Level.toBit : Level → Bool
  | .low => false
  | .high => true

end Sys2Proof
end

