-- ==== Sys2Proof/Config.lean ====
section
/-! DEFINITION. What is fixed at construction (BusConfig and the model's parameters), and the one free value. -/

namespace Sys2Proof

/-- The construction arguments (00_scope.md R8 to R12, 10_state.md R22, 70_reset_and_hazards.md R235).
Which of them are legal is `Config.Legal`; the defaults are `Machine.defaultConfig`. -/
structure Config where
  /-- CLK_PIN, an abstract pin identifier (R8). -/
  clkPin : Nat
  /-- DIO_PIN, an abstract pin identifier (R8). -/
  dioPin : Nat
  /-- DIGITS, the display size (R9). -/
  digits : Nat
  /-- BIT_DELAY_US, the half-bit delay in microseconds (R10). -/
  bitDelayUs : Nat
  /-- RX_MIN_HALF_BIT_US, the receiver's minimum half-bit time (R235). -/
  rxMinHalfBitUs : Nat
  /-- CMD_DATA (R130). -/
  cmdData : Byte
  /-- CMD_ADDR_BASE (R130). -/
  cmdAddrBase : Byte
  /-- CMD_DISP_BASE (R130). -/
  cmdDispBase : Byte
  /-- DISP_ON_BIT (R130). -/
  dispOnBit : Byte
  /-- GLYPH, the constant glyph table: entry i is the glyph of code i + 0x20 (R11, 20_memory.md R50). -/
  glyph : Vector Byte 96
  deriving DecidableEq, Repr

/-- FREE VALUE (log entry 2): the level the receiver drives in the n-th acknowledgement pulse, where the outside
world has fixed none. A draw under no law (20_memory.md R57): it has no body, so nothing can be proved of it. -/
opaque Config.freeAck : Nat → Level

end Sys2Proof
end

