-- ==== Sys2Proof/Machine/Defaults.lean ====
section
/-! DEFINITION. The default configuration: the spec's default parameters, and the two values the spec leaves to
the model (log entries 11 and 12). State.reset is built from it. -/

namespace Sys2Proof.Machine

/-- The default GLYPH, codes 0x20 to 0x7F in rows of sixteen (42_glyph.md R141 and R142). The entries of ' ', '0'
and '1' are fixed by R141. The other non-blank ones are PRESUMED: the spec's defaults from general knowledge (log entry 10). -/
def defaultGlyphRows : List Byte :=
  -- 0x20 ' ' to 0x2F '/': only '-' (0x2D) lights a segment
  [0, 0, 0, 0, 0, 0, 0, 0, 0, 0, 0, 0, 0, 0x40, 0, 0] ++
  -- 0x30 '0' to 0x3F '?'
  [0x3F, 0x06, 0x5B, 0x4F, 0x66, 0x6D, 0x7D, 0x07, 0x7F, 0x6F, 0, 0, 0, 0, 0, 0] ++
  -- 0x40 '@' to 0x4F 'O': E, H, L, N, O
  [0, 0, 0, 0, 0, 0x79, 0, 0, 0x76, 0, 0, 0, 0x38, 0, 0x37, 0x3F] ++
  -- 0x50 'P' to 0x5F '_': P
  [0x73, 0, 0, 0, 0, 0, 0, 0, 0, 0, 0, 0, 0, 0, 0, 0] ++
  -- 0x60 to 0x6F
  [0, 0, 0, 0, 0, 0, 0, 0, 0, 0, 0, 0, 0, 0, 0, 0] ++
  -- 0x70 to 0x7F
  [0, 0, 0, 0, 0, 0, 0, 0, 0, 0, 0, 0, 0, 0, 0, 0]

/-- The default glyph table as a table of 96 entries. -/
def defaultGlyph : Vector Byte 96 := ⟨defaultGlyphRows.toArray, rfl⟩

/-- The default configuration: DIGITS 4 and BIT_DELAY_US 75 (10_state.md R38), the command bytes of
41_command_encoder.md R130 (PRESUMED: general knowledge, log entry 10), pins 0 and 1 (DESIGN CHOICE, log entry 11) and
a receiver minimum of 75 (DESIGN CHOICE, log entry 12). -/
def defaultConfig : Config where
  clkPin := 0
  dioPin := 1
  digits := 4
  bitDelayUs := 75
  rxMinHalfBitUs := 75
  cmdData := 0x40
  cmdAddrBase := 0xC0
  cmdDispBase := 0x80
  dispOnBit := 0x08
  glyph := defaultGlyph

end Sys2Proof.Machine
end

