-- ==== Sys2Proof/Syntax.lean ====
section
/-! DEFINITION. The instruction set: one constructor per row of spec/opcode_table.json. -/

namespace Sys2Proof

/-- The 19 operations of 30_encoding.md R73 and the four wire byte kinds of R77 to R80. -/
inductive Instr where
  -- ProtocolDriver (40_protocol.md)
  | start
  | stop
  | bitDelay
  | writeByte (byte : Byte)
  -- CommandEncoder (41_command_encoder.md)
  | encData
  | encAddr (pos : Byte)
  | encDisp (level : Byte) (on : Bool)
  -- GlyphTable (42_glyph.md)
  | encodeCharacter (ch : Byte)
  -- Formatter (43_formatter.md)
  | encodeDecimal (value : BitVec 32) (leadingZero : Bool) (length : Byte)
  | encodeDecimalWithDot (value : BitVec 32) (dotMask : Byte) (leadingZero : Bool) (length : Byte)
  | encodeString (text : List Byte) (dotMask : Byte) (length : Byte) (position : Byte)
  -- Controller (44_controller.md)
  | displayBegin
  | displayClose
  | displayClear
  | setBrightness (level : Byte) (on : Bool)
  | setSegments (buffer : List Byte) (length : Byte) (position : Byte)
  | displayDecimal (value : BitVec 32) (leadingZero : Bool) (length : Byte) (position : Byte)
  | displayDecimalWDot (value : BitVec 32) (dotMask : Byte) (leadingZero : Bool) (length : Byte) (position : Byte)
  | displayString (text : List Byte) (dotMask : Byte) (length : Byte) (position : Byte)
  -- the kinds of wire byte (30_encoding.md section 2)
  | wireCmdData
  | wireCmdAddr (pos : BitVec 3)
  | wireCmdDisp (on : Bool) (level : BitVec 3)
  | wireSegment (dp g f e d c b a : Bool)
  deriving DecidableEq, Repr

end Sys2Proof
end

