-- ==== Sys2Proof/WellFormed.lean ====
section
/-! DEFINITION. Which instructions have an encoding. -/

namespace Sys2Proof

/-- A `bytes` argument fits its one length byte, 0 to 255 (30_encoding.md R71). -/
def fitsLengthByte (l : List Byte) : Bool := l.length ≤ 255

/-- An instruction is well formed when each `bytes` argument fits its length byte (R71).
Every other operand has the width its type gives it (R72). -/
def Instr.wellFormed : Instr → Bool
  | .encodeString text _ _ _ => fitsLengthByte text
  | .setSegments buffer _ _ => fitsLengthByte buffer
  | .displayString text _ _ _ => fitsLengthByte text
  | .start | .stop | .bitDelay | .writeByte _ => true
  | .encData | .encAddr _ | .encDisp _ _ | .encodeCharacter _ => true
  | .encodeDecimal _ _ _ | .encodeDecimalWithDot _ _ _ _ => true
  | .displayBegin | .displayClose | .displayClear | .setBrightness _ _ => true
  | .displayDecimal _ _ _ _ | .displayDecimalWDot _ _ _ _ _ => true
  | .wireCmdData | .wireCmdAddr _ | .wireCmdDisp _ _ | .wireSegment _ _ _ _ _ _ _ _ => true

/-- The instruction has an encoding. -/
abbrev Instr.WellFormed (i : Instr) : Prop := i.wellFormed = true

end Sys2Proof
end

