-- ==== Sys2Proof/Decode.lean ====
section
/-! DEFINITION. The decoders and the encoder: operation records (30_encoding.md section 1) and wire bytes
(section 2). Both decoders are total and reject by name. -/

namespace Sys2Proof

/-- Why an operation record is refused (30_encoding.md R71, R74). -/
inductive DecodeError where
  /-- The id is in no row of R73: "reserved operation id" (R74). -/
  | reservedOperationId (op : Byte)
  /-- The record ends before its last argument does (R71). -/
  | endsEarly
  /-- The record has bytes after its last argument (R71). -/
  | bytesLeftOver
  /-- A `bool` argument is neither 0x00 nor 0x01 (R71). -/
  | malformedBool (b : Byte)
  deriving DecidableEq, Repr

/-! ### Operation ids (R73) -/

def opStart : Byte := 0x01
def opStop : Byte := 0x02
def opBitDelay : Byte := 0x03
def opWriteByte : Byte := 0x04
def opEncData : Byte := 0x08
def opEncAddr : Byte := 0x09
def opEncDisp : Byte := 0x0A
def opEncodeCharacter : Byte := 0x10
def opEncodeDecimal : Byte := 0x18
def opEncodeDecimalWithDot : Byte := 0x19
def opEncodeString : Byte := 0x1A
def opDisplayBegin : Byte := 0x20
def opDisplayClose : Byte := 0x21
def opDisplayClear : Byte := 0x22
def opSetBrightness : Byte := 0x23
def opSetSegments : Byte := 0x24
def opDisplayDecimal : Byte := 0x28
def opDisplayDecimalWDot : Byte := 0x29
def opDisplayString : Byte := 0x2A

/-! ### Arguments (R71): each reader answers the value and the bytes after it -/

/-- A `u8` is one byte. -/
def takeU8 : List Byte → Except DecodeError (Byte × List Byte)
  | [] => .error .endsEarly
  | b :: rest => .ok (b, rest)

/-- A `bool` is one byte, 0x00 or 0x01; any other byte makes the record malformed. -/
def takeBool : List Byte → Except DecodeError (Bool × List Byte)
  | [] => .error .endsEarly
  | b :: rest =>
    if b = 0x00 then .ok (false, rest) else if b = 0x01 then .ok (true, rest) else .error (.malformedBool b)

/-- An `i32` is four bytes, least-significant first, two's complement. -/
def takeI32 : List Byte → Except DecodeError (BitVec 32 × List Byte)
  | b0 :: b1 :: b2 :: b3 :: rest => .ok (b3 ++ b2 ++ b1 ++ b0, rest)
  | _ => .error .endsEarly

/-- A `bytes` is one length byte n and then n bytes, first element first. -/
def takeBytes : List Byte → Except DecodeError (List Byte × List Byte)
  | [] => .error .endsEarly
  | n :: rest =>
    if n.toNat ≤ rest.length then .ok (rest.take n.toNat, rest.drop n.toNat) else .error .endsEarly

/-- The arguments of operation `op`, in signature order (R73), from the bytes after its id. A record with two defects is
refused (R71) under the name of the one met first in reading order: which name it is, is the model's choice
(log entry 24). -/
def takeArguments (op : Byte) (args : List Byte) : Except DecodeError (Instr × List Byte) :=
  if op = opStart then .ok (.start, args)
  else if op = opStop then .ok (.stop, args)
  else if op = opBitDelay then .ok (.bitDelay, args)
  else if op = opWriteByte then do
    let (byte, r) ← takeU8 args
    .ok (.writeByte byte, r)
  else if op = opEncData then .ok (.encData, args)
  else if op = opEncAddr then do
    let (pos, r) ← takeU8 args
    .ok (.encAddr pos, r)
  else if op = opEncDisp then do
    let (level, r) ← takeU8 args
    let (on, r) ← takeBool r
    .ok (.encDisp level on, r)
  else if op = opEncodeCharacter then do
    let (ch, r) ← takeU8 args
    .ok (.encodeCharacter ch, r)
  else if op = opEncodeDecimal then do
    let (value, r) ← takeI32 args
    let (leadingZero, r) ← takeBool r
    let (length, r) ← takeU8 r
    .ok (.encodeDecimal value leadingZero length, r)
  else if op = opEncodeDecimalWithDot then do
    let (value, r) ← takeI32 args
    let (dotMask, r) ← takeU8 r
    let (leadingZero, r) ← takeBool r
    let (length, r) ← takeU8 r
    .ok (.encodeDecimalWithDot value dotMask leadingZero length, r)
  else if op = opEncodeString then do
    let (text, r) ← takeBytes args
    let (dotMask, r) ← takeU8 r
    let (length, r) ← takeU8 r
    let (position, r) ← takeU8 r
    .ok (.encodeString text dotMask length position, r)
  else if op = opDisplayBegin then .ok (.displayBegin, args)
  else if op = opDisplayClose then .ok (.displayClose, args)
  else if op = opDisplayClear then .ok (.displayClear, args)
  else if op = opSetBrightness then do
    let (level, r) ← takeU8 args
    let (on, r) ← takeBool r
    .ok (.setBrightness level on, r)
  else if op = opSetSegments then do
    let (buffer, r) ← takeBytes args
    let (length, r) ← takeU8 r
    let (position, r) ← takeU8 r
    .ok (.setSegments buffer length position, r)
  else if op = opDisplayDecimal then do
    let (value, r) ← takeI32 args
    let (leadingZero, r) ← takeBool r
    let (length, r) ← takeU8 r
    let (position, r) ← takeU8 r
    .ok (.displayDecimal value leadingZero length position, r)
  else if op = opDisplayDecimalWDot then do
    let (value, r) ← takeI32 args
    let (dotMask, r) ← takeU8 r
    let (leadingZero, r) ← takeBool r
    let (length, r) ← takeU8 r
    let (position, r) ← takeU8 r
    .ok (.displayDecimalWDot value dotMask leadingZero length position, r)
  else if op = opDisplayString then do
    let (text, r) ← takeBytes args
    let (dotMask, r) ← takeU8 r
    let (length, r) ← takeU8 r
    let (position, r) ← takeU8 r
    .ok (.displayString text dotMask length position, r)
  else .error (.reservedOperationId op)

/-- The operation a byte sequence begins with, and the bytes after it (R71, R75). -/
def takeInstr : List Byte → Except DecodeError (Instr × List Byte)
  | [] => .error .endsEarly
  | op :: args => takeArguments op args

/-- The operation an operation record spells: the record is exactly one operation long (R71). -/
def decodeRecord (record : List Byte) : Except DecodeError Instr :=
  match takeInstr record with
  | .error e => .error e
  | .ok (i, []) => .ok i
  | .ok (_, _ :: _) => .error .bytesLeftOver

/-! ### Wire bytes (30_encoding.md section 2) -/

/-- Where a wire byte stands in its frame, which tells its kind (R81). -/
inductive Place where
  /-- No frame is open. -/
  | outside
  /-- Right after the start condition: the byte is a command. -/
  | command
  /-- After an address command: the byte is a segment byte. -/
  | segment
  /-- After any other first byte: R82 gives such a byte no meaning. -/
  | noMeaning
  deriving DecidableEq, Repr

/-- Why a wire byte spells nothing (R81, R82). -/
inductive WireError where
  /-- No frame is open: every wire byte belongs to a frame (R76). -/
  | outsideFrame
  /-- The first byte of a frame is none of the three commands (R82). -/
  | notACommand (b : Byte)
  /-- A byte after a frame's one data or display-control command byte, or after no command (R82). -/
  | noMeaning
  deriving DecidableEq, Repr

/-- The three command families (R77, R78, R80). -/
inductive WireCommand where
  | data
  | addr (pos : BitVec 3)
  | disp (on : Bool) (level : BitVec 3)
  deriving DecidableEq, Repr

/-- The family and operands of a command byte under a configuration, tried in the order of R81 (log entry 14). R81's
test takes the address command of every position; for a position at or past DIGITS, to which R82 gives no meaning, that
it is one is the model's choice (log entry 23). -/
def wireCommand (c : Config) (b : Byte) : Option WireCommand :=
  if b = c.cmdData then some .data
  else if b &&& 0xF8 = c.cmdAddrBase then some (.addr (b.setWidth 3))
  else if b &&& ~~~(0x07 ||| c.dispOnBit) = c.cmdDispBase then
    some (.disp (b &&& c.dispOnBit != 0) (b.setWidth 3))
  else none

/-- A segment byte from its segments: dp/colon, g, f, e, d, c, b, a from bit 7 down to bit 0 (R79). -/
def segmentByte (dp g f e d c b a : Bool) : Byte :=
  BitVec.ofBool dp ++ BitVec.ofBool g ++ BitVec.ofBool f ++ BitVec.ofBool e ++
    BitVec.ofBool d ++ BitVec.ofBool c ++ BitVec.ofBool b ++ BitVec.ofBool a

/-- The segment byte at a data place: every 8-bit value is one (R79). -/
def segmentInstr (v : Byte) : Instr :=
  .wireSegment (v.getLsbD 7) (v.getLsbD 6) (v.getLsbD 5) (v.getLsbD 4) (v.getLsbD 3) (v.getLsbD 2) (v.getLsbD 1)
    (v.getLsbD 0)

/-- The kind of a wire byte, told by its place and not by its value (R81). -/
def decodeWire (c : Config) (place : Place) (b : Byte) : Except WireError Instr :=
  match place with
  | .outside => .error .outsideFrame
  | .noMeaning => .error .noMeaning
  | .segment => .ok (segmentInstr b)
  | .command =>
    match wireCommand c b with
    | none => .error (.notACommand b)
    | some .data => .ok .wireCmdData
    | some (.addr pos) => .ok (.wireCmdAddr pos)
    | some (.disp on level) => .ok (.wireCmdDisp on level)

/-! ### The encoder -/

/-- A `bool` as one byte (R71). -/
def putBool (b : Bool) : Byte := if b then 0x01 else 0x00

/-- An `i32` as four bytes, least-significant first (R71). -/
def putI32 (v : BitVec 32) : List Byte :=
  [v.extractLsb' 0 8, v.extractLsb' 8 8, v.extractLsb' 16 8, v.extractLsb' 24 8]

/-- A `bytes` as its length byte and its elements (R71). -/
def putBytes (l : List Byte) : List Byte := BitVec.ofNat 8 l.length :: l

/-- The bytes of an instruction: an operation's record (R71, R73), or the one byte of a wire byte under the
configuration's command parameters (R77 to R80). -/
def encode (c : Config) : Instr → List Byte
  | .start => [opStart]
  | .stop => [opStop]
  | .bitDelay => [opBitDelay]
  | .writeByte byte => [opWriteByte, byte]
  | .encData => [opEncData]
  | .encAddr pos => [opEncAddr, pos]
  | .encDisp level on => [opEncDisp, level, putBool on]
  | .encodeCharacter ch => [opEncodeCharacter, ch]
  | .encodeDecimal value leadingZero length => opEncodeDecimal :: putI32 value ++ [putBool leadingZero, length]
  | .encodeDecimalWithDot value dotMask leadingZero length =>
    opEncodeDecimalWithDot :: putI32 value ++ [dotMask, putBool leadingZero, length]
  | .encodeString text dotMask length position => opEncodeString :: putBytes text ++ [dotMask, length, position]
  | .displayBegin => [opDisplayBegin]
  | .displayClose => [opDisplayClose]
  | .displayClear => [opDisplayClear]
  | .setBrightness level on => [opSetBrightness, level, putBool on]
  | .setSegments buffer length position => opSetSegments :: putBytes buffer ++ [length, position]
  | .displayDecimal value leadingZero length position =>
    opDisplayDecimal :: putI32 value ++ [putBool leadingZero, length, position]
  | .displayDecimalWDot value dotMask leadingZero length position =>
    opDisplayDecimalWDot :: putI32 value ++ [dotMask, putBool leadingZero, length, position]
  | .displayString text dotMask length position => opDisplayString :: putBytes text ++ [dotMask, length, position]
  | .wireCmdData => [c.cmdData]
  | .wireCmdAddr pos => [c.cmdAddrBase ||| pos.setWidth 8]
  | .wireCmdDisp on level => [c.cmdDispBase ||| (if on then c.dispOnBit else 0) ||| level.setWidth 8]
  | .wireSegment dp g f e d c b a => [segmentByte dp g f e d c b a]

/-- The instruction is an operation the host can issue as a record, not a wire byte. -/
def Instr.isOperation : Instr → Bool
  | .start | .stop | .bitDelay | .writeByte _ => true
  | .encData | .encAddr _ | .encDisp _ _ | .encodeCharacter _ => true
  | .encodeDecimal _ _ _ | .encodeDecimalWithDot _ _ _ _ | .encodeString _ _ _ _ => true
  | .displayBegin | .displayClose | .displayClear | .setBrightness _ _ | .setSegments _ _ _ => true
  | .displayDecimal _ _ _ _ | .displayDecimalWDot _ _ _ _ _ | .displayString _ _ _ _ => true
  | .wireCmdData | .wireCmdAddr _ | .wireCmdDisp _ _ | .wireSegment _ _ _ _ _ _ _ _ => false

/-! ### Words of the opcode table -/

/-- The bytes of a table word: bits 7..0 are the first byte, bits 15..8 the second, and so on. -/
def tableBytes (nbits w : Nat) : List Byte :=
  (List.range ((nbits + 7) / 8)).map fun k => BitVec.ofNat 8 (w >>> (8 * k))

/-- The zero bytes after a table word: at least what its record needs, which is at most 9 bytes or, with a `bytes`
argument, 5 bytes and the elements that the second byte counts (R73). -/
def tablePadding (given : List Byte) : List Byte := List.replicate (9 + (given[1]?.getD 0).toNat) 0

/-- The operation and the record of a table word, its operand bytes above the word being zeros. -/
def tableRecord (nbits w : Nat) : Option (Instr × List Byte) :=
  let given := tableBytes nbits w
  let padded := given ++ tablePadding given
  match takeInstr padded with
  | .error _ => none
  | .ok (i, rest) =>
    let used := padded.length - rest.length
    if given.length ≤ used then some (i, padded.take used) else none

/-- The wire byte of a one-byte table word that spells no operation: a command where the default parameters make
it one, else a segment byte (R81, log entry 19). -/
def tableWire (nbits w : Nat) : Option (Instr × Byte × Place) :=
  match tableBytes nbits w with
  | [b] =>
    match decodeWire Machine.defaultConfig .command b with
    | .ok i => some (i, b, .command)
    | .error _ => some (segmentInstr b, b, .segment)
  | _ => none

/-- The instruction of a word of spec/opcode_table.json: an operation record where the first byte is an operation
id, else a wire byte. The two formats share one table (log entry 19). -/
def decodeTableWord (nbits w : Nat) : Option Instr :=
  match tableRecord nbits w with
  | some (i, _) => some i
  | none => (tableWire nbits w).map (·.1)

end Sys2Proof
end

