-- ==== Sys2Proof/Machine/State.lean ====
section
/-! DEFINITION. The machine's state as plain data, its outcomes, and the state after reset (10_state.md). -/

namespace Sys2Proof.Machine

/-- The bus phase (10_state.md R24). -/
inductive Phase where
  | uninit
  | idle
  | started
  | writing
  | closed
  deriving DecidableEq, Repr

/-- A line's direction: driven by the block, or released (10_state.md R26). -/
inductive Dir where
  | output
  | input
  deriving DecidableEq, Repr

/-- A line's driver state (10_state.md R26). -/
structure Line where
  dir : Dir
  out : Level
  deriving DecidableEq, Repr

/-- Brightness (10_state.md R23). -/
structure Brightness where
  level : BitVec 3
  on : Bool
  deriving DecidableEq, Repr

/-- The fault codes (60_exceptions.md R201). -/
inductive FaultCode where
  | notOpen
  | framing
  deriving DecidableEq, Repr

/-- A recorded fault: the code and the operation id that raised it (60_exceptions.md R201). -/
structure FaultRecord where
  code : FaultCode
  op : Byte
  deriving DecidableEq, Repr

/-- One action of the action trace (10_state.md R32). -/
inductive Action where
  | clkSet (v : Level)
  | dioSet (v : Level)
  | dioRelease
  | clkRelease
  | dioSample (a : Level)
  | delay (us : Nat)
  deriving DecidableEq, Repr

/-- The result of an operation that completed with status OK (30_encoding.md R73, 44_controller.md R175). -/
inductive Value where
  | none
  | ack (a : Bool)
  | byte (b : Byte)
  | bytes (l : List Byte)
  | placed (buffer : List Byte) (position : Byte)
  | acks (l : List Bool)
  deriving DecidableEq, Repr

/-- What the host gets back from an operation: the result, the status ERR_RANGE, or the fault outcome
(44_controller.md R183, 60_exceptions.md R200, R211). -/
inductive Reply where
  | ok (v : Value)
  | errRange
  | fault (code : FaultCode)
  deriving DecidableEq, Repr

/-- What comes to be executed: an operation record the host issues (30_encoding.md R71), or one byte to be put on
the wire at its place in the open frame (R76, R81). -/
inductive Request where
  | record (bytes : List Byte)
  | wire (b : Byte)
  deriving DecidableEq, Repr

/-- Memory: cells of an address and a byte, addresses strictly rising. An address that is not listed reads as
unknown, the spec's own value of the receiver view (40_protocol.md R118). -/
abbrev Memory := List Host.Cell

/-- The receiver's write mode (40_protocol.md R118). -/
inductive WriteMode where
  | autoIncrement
  deriving DecidableEq, Repr

/-- The receiver view (40_protocol.md R118), as it stands after the last complete frame. `none` is the spec's
"unknown". `disp` is the receiver display memory (20_memory.md R52). -/
structure View where
  mode : Option WriteMode
  disp : Memory
  on : Option Bool
  level : Option (BitVec 3)
  deriving DecidableEq, Repr

/-- The receiver: the bytes of the open frame, each with whether it was acknowledged (`none`: no frame is open), and
its view. -/
structure Receiver where
  frame : Option (List (Byte × Bool))
  view : View
  deriving DecidableEq, Repr

/-- The view at power-up: everything unknown (40_protocol.md R118, 70_reset_and_hazards.md R233). -/
def View.unknown : View where
  mode := none
  disp := []
  on := none
  level := none

/-- The state of the block (10_state.md), of the receiver view (40_protocol.md R118), and of the host's side of the
interface. -/
structure State where
  /-- BusConfig and the parameters; no operation writes it (R22, R33). -/
  cfg : Config
  /-- Brightness; `none` is the spec's UNSET (R23). -/
  bright : Option Brightness
  /-- The bus phase (R24). -/
  phase : Phase
  /-- The CLK line (R26). -/
  clk : Line
  /-- The DIO line (R26). -/
  dio : Line
  /-- The last acknowledgement result; `none` is the spec's UNSET (R29). -/
  lastAck : Option Bool
  /-- The fault record; `none` is the spec's NONE (R30). -/
  fault : Option FaultRecord
  /-- The action trace, oldest first (R32). -/
  trace : List Action
  /-- The receiver (40_protocol.md R116 to R118). -/
  rx : Receiver
  /-- MODEL'S OWN (log entry 3): what the host got back, oldest first (44_controller.md R183). -/
  replies : List Reply
  /-- MODEL'S OWN (log entry 1): what is to be executed next, oldest first (44_controller.md R183). -/
  requests : List Request
  /-- MODEL'S OWN (log entry 2): levels the outside world has fixed for the coming samples (20_memory.md R57). -/
  samples : List Level
  /-- MODEL'S OWN (log entry 2): how many samples were taken, the argument of the free value Config.freeAck. -/
  draws : Nat
  deriving DecidableEq, Repr

/-- Why the machine stops. -/
inductive Fault where
  /-- Raised by every instruction once a fault is recorded: the block takes no step of any kind, and the record is
  never cleared (10_state.md R30, 60_exceptions.md R206). Safe: the spec itself stops the block. -/
  | stopped (record : FaultRecord)
  deriving DecidableEq, Repr

/-- Why an instruction is not executed. -/
inductive Refusal where
  /-- Raised by exec's arm of an instruction that has no meaning yet. Safe. -/
  | notModelled (mnemonic : String)
  /-- Raised by `step`: the decoder refuses the operation record by name (30_encoding.md R71, R74).
  Safe: the model stops where the block performs nothing (log entry 15). -/
  | record (e : DecodeError)
  /-- Raised by `step`: a wire byte that has no meaning at its place (30_encoding.md R81, R82).
  Safe: the spec gives such a byte no meaning (log entry 6). -/
  | wire (e : WireError)
  deriving DecidableEq, Repr

/-- The outcome of one instruction. -/
abbrev Result := Host.Outcome State Fault Refusal

/-- The state a configuration is constructed in: the values of 10_state.md R38, the receiver unknown
(40_protocol.md R118), and the model's own fields empty. -/
def State.ofConfig (c : Config) : State where
  cfg := c
  bright := none
  phase := .uninit
  clk := ⟨.input, .low⟩
  dio := ⟨.input, .low⟩
  lastAck := none
  fault := none
  trace := []
  rx := ⟨none, .unknown⟩
  replies := []
  requests := []
  samples := []
  draws := 0

/-- The machine right after reset, which is construction with the default configuration (R38, 70_reset_and_hazards.md
R230). -/
def State.reset : State := State.ofConfig defaultConfig

end Sys2Proof.Machine
end

