-- ==== Sys2Proof/Machine/Operands.lean ====
section
/-! DEFINITION. How operands are assembled inside the operations (30_encoding.md R85) and checked
(44_controller.md R174). -/

namespace Sys2Proof.Machine

/-- Brightness reduced to 3 bits, `level & 0x07` (30_encoding.md R85). -/
def brightnessLevel (level : Byte) : BitVec 3 := (level &&& 0x07).setWidth 3

/-- The on flag as the configured bit or 0 (R85). -/
def onField (c : Config) (on : Bool) : Byte := if on then c.dispOnBit else 0

/-- Mask bit i selects slot i; bits 0 to 7 exist (43_formatter.md R159). -/
def maskSelects (m : Byte) (i : Nat) : Bool := decide (i ≤ 7) && m.getLsbD i

/-- The elements of a text before its first 0x00 (43_formatter.md R161). -/
def textUpToZero (t : List Byte) : List Byte := t.takeWhile (· != 0x00)

/-- `pos >= DIGITS or len > DIGITS - pos or len > len(buf)` (44_controller.md R174). -/
def outOfRange (c : Config) (bufferLength len pos : Nat) : Bool :=
  decide (c.digits ≤ pos) || decide (c.digits - pos < len) || decide (bufferLength < len)

end Sys2Proof.Machine
end

