-- ==== Sys2Proof/Machine/Flags.lean ====
section
/-! DEFINITION. The block's one flag and the status and fault codes (10_state.md R29, R31). -/

namespace Sys2Proof.Machine

/-- The acknowledgement result of a sampled level: true when it was 0 (40_protocol.md R108, R110). -/
def ackOf (a : Level) : Bool := a == .low

/-- The number of a fault code (60_exceptions.md R201). -/
def FaultCode.number : FaultCode → Nat
  | .notOpen => 1
  | .framing => 2

/-- The number of the status a reply carries: OK is 0, ERR_RANGE is 1 (60_exceptions.md R200). A fault outcome
carries no status. -/
def Reply.status : Reply → Option Nat
  | .ok _ => some 0
  | .errRange => some 1
  | .fault _ => none

end Sys2Proof.Machine
end

