-- ==== Sys2Proof/Machine/Memory.lean ====
section
/-! DEFINITION. The named operations over memory: the receiver display (20_memory.md R52) and the glyph table
(R50, R51). -/

namespace Sys2Proof

/-- `MemRead(i, 1)` of the glyph table (20_memory.md R51). Only codes 0x20 to 0x7F form an index, so the last case
is never read. -/
def Config.glyphAt (c : Config) (i : Nat) : Byte := if h : i < 96 then c.glyph[i] else 0x00

namespace Machine

/-- The canonical form: addresses strictly rising. An unlisted address reads as unknown, which no entry can hold. -/
abbrev Memory.wf (m : Memory) : Prop := m.Pairwise fun x y => x.1 < y.1

/-- The byte at an address; `none` is unknown. -/
def Memory.read : Memory → Nat → Option Byte
  | [], _ => none
  | (k, v) :: m, a => if k = a then some v else Memory.read m a

/-- `MemWrite(a, 1, v)` (00_scope.md R15). -/
def Memory.write : Memory → Nat → Byte → Memory
  | [], a, v => [(a, v)]
  | (k, w) :: m, a, v =>
    if a < k then (a, v) :: (k, w) :: m
    else if a = k then (a, v) :: m
    else (k, w) :: Memory.write m a v

/-- An address becomes unknown. -/
def Memory.forget (m : Memory) (a : Nat) : Memory := m.filter fun cell => cell.1 != a

/-- The bytes go to consecutive addresses from `a` (20_memory.md R55). -/
def Memory.writeAll : Memory → Nat → List Byte → Memory
  | m, _, [] => m
  | m, a, b :: bs => Memory.writeAll (Memory.write m a b) (a + 1) bs

/-- `n` consecutive addresses from `a` become unknown. -/
def Memory.forgetAll : Memory → Nat → Nat → Memory
  | m, _, 0 => m
  | m, a, n + 1 => Memory.forgetAll (Memory.forget m a) (a + 1) n

end Machine

end Sys2Proof
end

