-- ==== Sys2Proof/Machine/Receiver.lean ====
section
/-! DEFINITION. The receiver view: what a complete frame does to it (40_protocol.md R118). -/

namespace Sys2Proof

/-- The half-bit delay is one for which the wire contract R116 to R118 is claimed: at least the receiver's minimum
(70_reset_and_hazards.md R235), and not 0 (R240). With both at 0, R235's condition holds and R240's words still make the
view unknown: that the model then claims nothing is its choice (log entry 12). -/
def Config.slowEnough (c : Config) : Bool := decide (0 < c.bitDelayUs) && decide (c.rxMinHalfBitUs ≤ c.bitDelayUs)

namespace Machine

/-- Every byte of the frame was acknowledged. -/
def frameAcked (frame : List (Byte × Bool)) : Bool := frame.all (·.2)

/-- An address frame's payload at position `pos` (R118). The payload is written where the mode is known to be
auto-increment and every byte was acknowledged. Otherwise its positions become unknown. A frame for a position at or
past DIGITS, with a payload or without, and one whose payload runs past the display leave the whole view unknown: no
source says what the receiver does (20_memory.md R62, 30_encoding.md R82), and this is the model's choice
(log entry 8). -/
def View.address (c : Config) (acked : Bool) (pos : Nat) (payload : List Byte) (v : View) : View :=
  if c.digits ≤ pos ∨ c.digits < pos + payload.length then .unknown
  else if acked ∧ v.mode = some .autoIncrement then { v with disp := v.disp.writeAll pos payload }
  else { v with disp := v.disp.forgetAll pos payload.length }

/-- The effect of one complete frame on the view (R118). With a half-bit delay the receiver need not accept the view is
unknown (70_reset_and_hazards.md R240, log entry 12). A frame that R118 does not list leaves the whole view unknown (30_encoding.md R82,
log entry 8). A field whose frame had an unacknowledged byte becomes unknown. -/
def View.complete (c : Config) (frame : List (Byte × Bool)) (v : View) : View :=
  if c.slowEnough = false then .unknown
  else
    match frame with
    | [] => v
    | (cmd, _) :: payload =>
      match wireCommand c cmd, payload with
      | some .data, [] => { v with mode := if frameAcked frame then some .autoIncrement else none }
      | some (.disp on level), [] =>
        if frameAcked frame then { v with on := some on, level := some level }
        else { v with on := none, level := none }
      | some (.addr pos), _ => v.address c (frameAcked frame) pos.toNat (payload.map (·.1))
      | _, _ => .unknown

/-- A start condition opens a frame (R117). -/
def Receiver.openFrame (rx : Receiver) : Receiver := { rx with frame := some [] }

/-- A byte and its acknowledgement join the open frame (R117). -/
def Receiver.takeByte (b : Byte) (ack : Bool) (rx : Receiver) : Receiver :=
  { rx with frame := rx.frame.map (· ++ [(b, ack)]) }

/-- A stop condition completes the frame, which takes its effect (R117, R118, log entry 7). -/
def Receiver.closeFrame (c : Config) (rx : Receiver) : Receiver :=
  match rx.frame with
  | none => rx
  | some frame => { frame := none, view := rx.view.complete c frame }

/-- Where the next wire byte stands (30_encoding.md R81). -/
def Receiver.place (c : Config) (rx : Receiver) : Place :=
  match rx.frame with
  | none => .outside
  | some [] => .command
  | some ((cmd, _) :: _) =>
    match wireCommand c cmd with
    | some (.addr _) => .segment
    | _ => .noMeaning

end Machine

end Sys2Proof
end

