-- ==== Sys2Proof/Machine/Ops.lean ====
section
/-! DEFINITION. The named operations over the state: the line primitives (00_scope.md R16), the shared phase checks and
the recording of a fault, and the wire sequences of START, STOP and WRITEBYTE (40_protocol.md). -/

namespace Sys2Proof.Machine

/-! ### Line primitives (00_scope.md R16, 10_state.md R26) -/

/-- One action joins the trace. -/
def State.act (a : Action) (s : State) : State := { s with trace := s.trace ++ [a] }

/-- `clk(v)`: drive CLK as an output at level v. -/
def State.setClk (v : Level) (s : State) : State := { s.act (.clkSet v) with clk := ⟨.output, v⟩ }

/-- `dio(v)`: drive DIO as an output at level v. -/
def State.setDio (v : Level) (s : State) : State := { s.act (.dioSet v) with dio := ⟨.output, v⟩ }

/-- `dio_release()`: switch DIO to input; its `out` stays. -/
def State.releaseDio (s : State) : State := { s.act .dioRelease with dio := { s.dio with dir := .input } }

/-- `clk_release()`: switch CLK to input; its `out` stays. -/
def State.releaseClk (s : State) : State := { s.act .clkRelease with clk := { s.clk with dir := .input } }

/-- `delay()`: busy-wait BIT_DELAY_US; no line changes (40_protocol.md R107). -/
def State.delay (s : State) : State := s.act (.delay s.cfg.bitDelayUs)

/-- The level of the next acknowledgement sample: what the outside world has fixed, else the free value
(20_memory.md R57, log entry 2). -/
def State.nextSample (s : State) : Level :=
  match s.samples with
  | a :: _ => a
  | [] => Config.freeAck s.draws

/-- `dio_read()`: sample the DIO line; the sampled level is `s.nextSample`. -/
def State.sampleDio (s : State) : State :=
  { s.act (.dioSample s.nextSample) with samples := s.samples.tail, draws := s.draws + 1 }

/-! ### Outcomes (00_scope.md R17) -/

/-- The host is handed an outcome (44_controller.md R183). -/
def State.reply (r : Reply) (s : State) : State := { s with replies := s.replies ++ [r] }

/-- `raise Fault(code)`: the fault and the operation id that raised it are recorded, nothing else happens, and the
caller is handed the fault outcome (60_exceptions.md R201, R206, R211). -/
def State.raise (code : FaultCode) (op : Byte) (s : State) : State :=
  { s with fault := some ⟨code, op⟩ }.reply (.fault code)

/-- With a fault recorded the block takes no step of any kind (60_exceptions.md R206); otherwise it goes on. -/
def State.running (s : State) (go : State → Result) : Result :=
  match s.fault with
  | some record => .fault (.stopped record)
  | none => go s

/-- `check(P)` (40_protocol.md R100) and `wire_check()` (44_controller.md): a recorded fault first, then NOT_OPEN, then
FRAMING (60_exceptions.md R207). -/
def State.check (op : Byte) (accepts : Phase → Bool) (s : State) (go : State → Result) : Result :=
  s.running fun s =>
    if s.phase = .uninit ∨ s.phase = .closed then .next (s.raise .notOpen op)
    else if accepts s.phase then go s
    else .next (s.raise .framing op)

/-- The check of DISPLAYBEGIN and DISPLAYCLOSE: FRAMING inside a transaction (44_controller.md R170, R172). -/
def State.checkOutsideFrame (op : Byte) (s : State) (go : State → Result) : Result :=
  s.running fun s =>
    if s.phase = .started ∨ s.phase = .writing then .next (s.raise .framing op) else go s

/-- The phases START and the Controller accept (40_protocol.md R101, 44_controller.md wire_check). -/
def inIdle (p : Phase) : Bool := p == .idle

/-- The phases STOP and WRITEBYTE accept (40_protocol.md R104, R108). -/
def inFrame (p : Phase) : Bool := p == .started || p == .writing

/-! ### Wire sequences (40_protocol.md) -/

/-- The actions of START and its phase (R101); the receiver sees a start condition (R102). -/
def State.startCondition (s : State) : State :=
  let s := s.setDio .low |>.delay
  { s with phase := .started, rx := s.rx.openFrame }

/-- The actions of STOP and its phase (R104); the receiver sees a stop condition (R105). -/
def State.stopCondition (s : State) : State :=
  let s := s.setDio .low |>.delay |>.setClk .high |>.delay |>.setDio .high |>.delay
  { s with phase := .idle, rx := s.rx.closeFrame s.cfg }

/-- One bit of WRITEBYTE (R108): on DIO while CLK is low, latched on the rising edge (R109). -/
def State.sendBit (v : Bool) (s : State) : State :=
  s.setClk .low |>.setDio (.ofBit v) |>.delay |>.setClk .high |>.delay |>.setClk .low

/-- The eight bits of a byte, least-significant first (R108, 20_memory.md R54). -/
def State.sendBits (b : Byte) (s : State) : State :=
  (List.range 8).foldl (fun s i => s.sendBit (b.getLsbD i)) s

/-- The acknowledgement pulse of WRITEBYTE (R108): DIO released, CLK high, the sample, a delay, CLK low. -/
def State.ackPulse (s : State) : State :=
  s.releaseDio |>.setClk .high |>.sampleDio |>.delay |>.setClk .low

/-- The body of WRITEBYTE (R108): the actions, the acknowledgement and the phase. Whatever the acknowledgement, the
phase is WRITING (R111). -/
def State.sendByte (b : Byte) (s : State) : State :=
  let ack := ackOf s.nextSample
  let s := s.sendBits b |>.ackPulse
  { s with lastAck := some ack, phase := .writing, rx := s.rx.takeByte b ack }

/-- WRITEBYTE for each byte in order, and the acknowledgement results in order (44_controller.md R175). -/
def State.sendBytes : List Byte → State → List Bool × State
  | [], s => ([], s)
  | b :: bs, s =>
    let (acks, s') := State.sendBytes bs (s.sendByte b)
    (ackOf s.nextSample :: acks, s')

/-- A transaction: START, the bytes, STOP (40_protocol.md R113). -/
def State.transaction (bytes : List Byte) (s : State) : List Bool × State :=
  let (acks, s') := s.startCondition.sendBytes bytes
  (acks, s'.stopCondition)

end Sys2Proof.Machine
end

