-- ==== Sys2Proof/Machine/CommandEncoder.lean ====
section
/-! DEFINITION. The CommandEncoder: ENC_DATA, ENC_ADDR, ENC_DISP (41_command_encoder.md). -/

namespace Sys2Proof.Machine

/-- ENC_DATA (R132). -/
def dataCommand (c : Config) : Byte := c.cmdData

/-- ENC_ADDR (R133): the position is ORed in unchecked. -/
def addressCommand (c : Config) (pos : Byte) : Byte := c.cmdAddrBase ||| pos

/-- ENC_DISP (R134): the level is masked to 3 bits. -/
def displayCommand (c : Config) (level : Byte) (on : Bool) : Byte :=
  c.cmdDispBase ||| onField c on ||| (brightnessLevel level).setWidth 8

/-- ENC_DATA as an operation (R132, R135). -/
def execEncData (s : State) : Result :=
  s.running fun s => .next (s.reply (.ok (.byte (dataCommand s.cfg))))

/-- ENC_ADDR as an operation (R133, R135). -/
def execEncAddr (pos : Byte) (s : State) : Result :=
  s.running fun s => .next (s.reply (.ok (.byte (addressCommand s.cfg pos))))

/-- ENC_DISP as an operation (R134, R135). -/
def execEncDisp (level : Byte) (on : Bool) (s : State) : Result :=
  s.running fun s => .next (s.reply (.ok (.byte (displayCommand s.cfg level on))))

end Sys2Proof.Machine
end

