-- ==== Sys2Proof/Machine/Glyph.lean ====
section
/-! DEFINITION. The GlyphTable: ENCODECHARACTER, and the segments of a segment byte (42_glyph.md, 30_encoding.md R79). -/

namespace Sys2Proof.Machine

/-- The glyph of a character code: the table in 0x20 to 0x7F, blank elsewhere (42_glyph.md R140, R143). -/
def glyphOf (c : Config) (ch : Byte) : Byte :=
  if 0x20 ≤ ch.toNat ∧ ch.toNat ≤ 0x7F then c.glyphAt (ch.toNat - 0x20) else 0x00

/-- ENCODECHARACTER, which is the Controller's encodeCharacter too (R140, 44_controller.md R182). -/
def execEncodeCharacter (ch : Byte) (s : State) : Result :=
  s.running fun s => .next (s.reply (.ok (.byte (glyphOf s.cfg ch))))

/-- The segments of a digit: a top, b upper right, c lower right, d bottom, e lower left, f upper left, g middle
(42_glyph.md R147), and the decimal point or colon (30_encoding.md R79). -/
inductive Segment where
  | a | b | c | d | e | f | g | dp
  deriving DecidableEq, Repr

/-- The bit of a segment (30_encoding.md R79). -/
def segmentBit : Segment → Nat
  | .a => 0
  | .b => 1
  | .c => 2
  | .d => 3
  | .e => 4
  | .f => 5
  | .g => 6
  | .dp => 7

/-- A set bit lights its segment (30_encoding.md R79). -/
def isLit (v : Byte) (seg : Segment) : Bool := v.getLsbD (segmentBit seg)

end Sys2Proof.Machine
end

