-- ==== Sys2Proof/Machine/Formatter.lean ====
section
/-! DEFINITION. The Formatter: ENCODEDECIMAL, ENCODEDECIMALWITHDOT, ENCODESTRING (43_formatter.md). -/

namespace Sys2Proof.Machine

/-- The ASCII code of a decimal digit. -/
def digitCode (d : Nat) : Byte := BitVec.ofNat 8 (0x30 + d)

/-- The code of the minus sign. -/
def minusCode : Byte := 0x2D

/-- The code of the space. -/
def spaceCode : Byte := 0x20

/-- The decimal digits of n, most significant first, before the digits already found; `fuel` bounds their number. -/
def digitsBefore : Nat → Nat → List Byte → List Byte
  | 0, _, found => found
  | fuel + 1, n, found =>
    if n < 10 then digitCode n :: found else digitsBefore fuel (n / 10) (digitCode (n % 10) :: found)

/-- `decstr(v)` (R150): the digits of the exact magnitude of v, which has at most ten. -/
def decimalDigits (v : BitVec 32) : List Byte := digitsBefore 10 v.toInt.natAbs []

/-- The last n elements of a sequence, all of it if it is shorter (00_scope.md R14). -/
def lastElements (l : List Byte) (n : Nat) : List Byte := l.drop (l.length - n)

/-- The characters of a decimal value in `len` slots (R151 to R157). -/
def decimalChars (v : BitVec 32) (leadingZero : Bool) (len : Nat) : List Byte :=
  let digits := decimalDigits v
  let negative := decide (v.toInt < 0)
  let signed := (if negative then [minusCode] else []) ++ digits
  let free := len - signed.length
  if len ≤ signed.length then lastElements signed len
  else if !leadingZero then List.replicate free spaceCode ++ signed
  else if !negative then List.replicate free (digitCode 0) ++ digits
  else minusCode :: List.replicate free (digitCode 0) ++ digits

/-- ENCODEDECIMAL's result (R151). -/
def formatDecimal (c : Config) (v : BitVec 32) (leadingZero : Bool) (len : Nat) : List Byte :=
  (decimalChars v leadingZero len).map (glyphOf c)

/-- `applyDots` (R164): the dp/colon bit of every slot the mask selects. -/
def applyDots (buffer : List Byte) (m : Byte) : List Byte :=
  buffer.mapIdx fun i b => if maskSelects m i then b ||| 0x80 else b

/-- ENCODEDECIMALWITHDOT's result (R158): dots after truncation. -/
def formatDecimalWithDot (c : Config) (v : BitVec 32) (m : Byte) (leadingZero : Bool) (len : Nat) : List Byte :=
  applyDots (formatDecimal c v leadingZero len) m

/-- ENCODESTRING's buffer (R160): a glyph where the text has a character, a blank after it, then the dots. -/
def formatString (c : Config) (t : List Byte) (m : Byte) (len : Nat) : List Byte :=
  let text := textUpToZero t
  applyDots ((List.range len).map fun k => match text[k]? with
    | some ch => glyphOf c ch
    | none => 0x00) m

/-- ENCODEDECIMAL (R151). -/
def execEncodeDecimal (value : BitVec 32) (leadingZero : Bool) (length : Byte) (s : State) : Result :=
  s.running fun s => .next (s.reply (.ok (.bytes (formatDecimal s.cfg value leadingZero length.toNat))))

/-- ENCODEDECIMALWITHDOT (R158). -/
def execEncodeDecimalWithDot (value : BitVec 32) (dotMask : Byte) (leadingZero : Bool) (length : Byte)
    (s : State) : Result :=
  s.running fun s =>
    .next (s.reply (.ok (.bytes (formatDecimalWithDot s.cfg value dotMask leadingZero length.toNat))))

/-- ENCODESTRING (R160): the position passes through unchanged (R162). -/
def execEncodeString (text : List Byte) (dotMask length position : Byte) (s : State) : Result :=
  s.running fun s => .next (s.reply (.ok (.placed (formatString s.cfg text dotMask length.toNat) position)))

end Sys2Proof.Machine
end

