-- ==== Sys2Proof/Machine/Controller.lean ====
section
/-! DEFINITION. The Controller operations (44_controller.md). -/

namespace Sys2Proof.Machine

/-- DISPLAYBEGIN (R170): both lines outputs, idle high. -/
def execDisplayBegin (s : State) : Result :=
  s.checkOutsideFrame opDisplayBegin fun s =>
    .next ({ (s.setClk .high |>.setDio .high) with phase := .idle }.reply (.ok .none))

/-- DISPLAYCLOSE (R172): both lines released. -/
def execDisplayClose (s : State) : Result :=
  s.checkOutsideFrame opDisplayClose fun s =>
    .next ({ s.releaseDio.releaseClk with phase := .closed }.reply (.ok .none))

/-- The two transactions of SETSEGMENTS (R173): the data command, then the address command and the bytes. -/
def State.sendSegments (bytes : List Byte) (pos : Byte) (s : State) : List Bool × State :=
  let (first, s) := s.transaction [dataCommand s.cfg]
  let (second, s) := s.transaction (addressCommand s.cfg pos :: bytes)
  (first ++ second, s)

/-- SETSEGMENTS (R173 to R176), under the id of the operation the host issued (log entry 5): the phase check, the
range check, then the first `len` bytes of the buffer, exactly as given. -/
def State.setSegments (op : Byte) (buffer : List Byte) (len : Nat) (pos : Byte) (s : State) : Result :=
  s.check op inIdle fun s =>
    if outOfRange s.cfg buffer.length len pos.toNat then .next (s.reply .errRange)
    else
      let (acks, s) := s.sendSegments (buffer.take len) pos
      .next (s.reply (.ok (.acks acks)))

/-- SETSEGMENTS (R173). -/
def execSetSegments (buffer : List Byte) (length position : Byte) (s : State) : Result :=
  s.setSegments opSetSegments buffer length.toNat position

/-- DISPLAYCLEAR (R177): a blank to each of the DIGITS positions. -/
def execDisplayClear (s : State) : Result :=
  s.setSegments opDisplayClear (List.replicate s.cfg.digits 0x00) s.cfg.digits 0

/-- The state change of SETBRIGHTNESS (R178): store the brightness, and send it at once as its own transaction. -/
def State.sendBrightness (level : Byte) (on : Bool) (s : State) : List Bool × State :=
  let s := { s with bright := some ⟨brightnessLevel level, on⟩ }
  s.transaction [displayCommand s.cfg level on]

/-- SETBRIGHTNESS (R178). -/
def execSetBrightness (level : Byte) (on : Bool) (s : State) : Result :=
  s.check opSetBrightness inIdle fun s =>
    let (acks, s) := s.sendBrightness level on
    .next (s.reply (.ok (.acks acks)))

/-- DISPLAYDECIMAL (R179). -/
def execDisplayDecimal (value : BitVec 32) (leadingZero : Bool) (length position : Byte) (s : State) : Result :=
  s.setSegments opDisplayDecimal (formatDecimal s.cfg value leadingZero length.toNat) length.toNat position

/-- DISPLAYDECIMALWDOT (R180). -/
def execDisplayDecimalWDot (value : BitVec 32) (dotMask : Byte) (leadingZero : Bool) (length position : Byte)
    (s : State) : Result :=
  s.setSegments opDisplayDecimalWDot (formatDecimalWithDot s.cfg value dotMask leadingZero length.toNat)
    length.toNat position

/-- DISPLAYSTRING (R181): the text's length does not enter the range check. -/
def execDisplayString (text : List Byte) (dotMask length position : Byte) (s : State) : Result :=
  s.setSegments opDisplayString (formatString s.cfg text dotMask length.toNat) length.toNat position

end Sys2Proof.Machine
end

