-- ==== Sys2Proof/Machine/Protocol.lean ====
section
/-! DEFINITION. The ProtocolDriver: START, STOP, BITDELAY, WRITEBYTE (40_protocol.md). -/

namespace Sys2Proof.Machine

/-- START (R101). -/
def execStart (s : State) : Result :=
  s.check opStart inIdle fun s => .next (s.startCondition.reply (.ok .none))

/-- STOP (R104). -/
def execStop (s : State) : Result :=
  s.check opStop inFrame fun s => .next (s.stopCondition.reply (.ok .none))

/-- BITDELAY (R106): accepted in every phase. -/
def execBitDelay (s : State) : Result :=
  s.running fun s => .next (s.delay.reply (.ok .none))

/-- WRITEBYTE (R108). -/
def execWriteByte (byte : Byte) (s : State) : Result :=
  s.check opWriteByte inFrame fun s => .next ((s.sendByte byte).reply (.ok (.ack (ackOf s.nextSample))))

end Sys2Proof.Machine
end

