-- ==== Sys2Proof/Machine/WireBytes.lean ====
section
/-! DEFINITION. The kinds of wire byte (30_encoding.md R76 to R82): the block puts the byte on the wire as WRITEBYTE
does, and the receiver reads it by its place in the frame (log entry 6). The decoder gives a byte its kind by that place
(R81). -/

namespace Sys2Proof.Machine

/-- One wire byte. Only WRITEBYTE puts a byte on the wire, so its phase check and its operation id are those of
WRITEBYTE (40_protocol.md R108). -/
def State.sendWire (b : Byte) (s : State) : Result :=
  s.check opWriteByte inFrame fun s => .next ((s.sendByte b).reply (.ok (.ack (ackOf s.nextSample))))

/-- The data command byte (R77). -/
def execWireCmdData (s : State) : Result := s.sendWire (dataCommand s.cfg)

/-- The address command byte (R78). -/
def execWireCmdAddr (pos : BitVec 3) (s : State) : Result :=
  s.sendWire (addressCommand s.cfg (pos.setWidth 8))

/-- The display-control command byte (R80). -/
def execWireCmdDisp (on : Bool) (level : BitVec 3) (s : State) : Result :=
  s.sendWire (displayCommand s.cfg (level.setWidth 8) on)

/-- A segment byte (R79). -/
def execWireSegment (dp g f e d c b a : Bool) (s : State) : Result :=
  s.sendWire (segmentByte dp g f e d c b a)

end Sys2Proof.Machine
end

