-- ==== Sys2Proof/Machine/Dispatch.lean ====
section
/-! DEFINITION. exec: one arm per instruction. -/

namespace Sys2Proof.Machine

def exec (i : Instr) (s : State) : Host.Outcome State Fault Refusal :=
  match i with
  | .start => Sys2Proof.Machine.execStart s
  | .stop => Sys2Proof.Machine.execStop s
  | .bitDelay => Sys2Proof.Machine.execBitDelay s
  | .writeByte byte => Sys2Proof.Machine.execWriteByte byte s
  | .encData => Sys2Proof.Machine.execEncData s
  | .encAddr pos => Sys2Proof.Machine.execEncAddr pos s
  | .encDisp level on => Sys2Proof.Machine.execEncDisp level on s
  | .encodeCharacter ch => Sys2Proof.Machine.execEncodeCharacter ch s
  | .encodeDecimal value leadingZero length => Sys2Proof.Machine.execEncodeDecimal value leadingZero length s
  | .encodeDecimalWithDot value dotMask leadingZero length => Sys2Proof.Machine.execEncodeDecimalWithDot value dotMask leadingZero length s
  | .encodeString text dotMask length position => Sys2Proof.Machine.execEncodeString text dotMask length position s
  | .displayBegin => Sys2Proof.Machine.execDisplayBegin s
  | .displayClose => Sys2Proof.Machine.execDisplayClose s
  | .displayClear => Sys2Proof.Machine.execDisplayClear s
  | .setBrightness level on => Sys2Proof.Machine.execSetBrightness level on s
  | .setSegments buffer length position => Sys2Proof.Machine.execSetSegments buffer length position s
  | .displayDecimal value leadingZero length position => Sys2Proof.Machine.execDisplayDecimal value leadingZero length position s
  | .displayDecimalWDot value dotMask leadingZero length position => Sys2Proof.Machine.execDisplayDecimalWDot value dotMask leadingZero length position s
  | .displayString text dotMask length position => Sys2Proof.Machine.execDisplayString text dotMask length position s
  | .wireCmdData => Sys2Proof.Machine.execWireCmdData s
  | .wireCmdAddr pos => Sys2Proof.Machine.execWireCmdAddr pos s
  | .wireCmdDisp on level => Sys2Proof.Machine.execWireCmdDisp on level s
  | .wireSegment dp g f e d c b a => Sys2Proof.Machine.execWireSegment dp g f e d c b a s

end Sys2Proof.Machine
end

