-- ==== Sys2Proof/Machine/Fetch.lean ====
section
/-! DEFINITION. Taking the next instruction: what the host issues next, decoded (30_encoding.md R71, R81,
44_controller.md R183), and how a table word is put there. -/

namespace Sys2Proof.Machine

/-- The instruction of a request in a state: a record by the record decoder, a wire byte by its place in the open
frame. -/
def decodeRequest (s : State) : Request → Except Refusal Instr
  | .record bytes =>
    match decodeRecord bytes with
    | .ok i => .ok i
    | .error e => .error (.record e)
  | .wire b =>
    match decodeWire s.cfg (s.rx.place s.cfg) b with
    | .ok i => .ok i
    | .error e => .error (.wire e)

/-- The next request's instruction and the state without that request; `none` when the host has issued nothing. -/
def fetch (s : State) : Option (Except Refusal Instr × State) :=
  match s.requests with
  | [] => none
  | r :: rest => some (decodeRequest s r, { s with requests := rest })

/-- A frame is open so that the next wire byte stands at `place`: just after START, or after START and an acknowledged
address command for position 0. The lines are as 10_state.md R28 says for the phase. -/
def State.atPlace (place : Place) (s : State) : State :=
  match place with
  | .command =>
    { s with phase := .started, clk := ⟨.output, .high⟩, dio := ⟨.output, .low⟩, rx := { s.rx with frame := some [] } }
  | .segment =>
    { s with phase := .writing, clk := ⟨.output, .low⟩, dio := { s.dio with dir := .input },
             rx := { s.rx with frame := some [(addressCommand s.cfg 0, true)] } }
  | .outside | .noMeaning => s

/-- The host issues a request before all others. -/
def State.issue (r : Request) (s : State) : State := { s with requests := r :: s.requests }

/-- The instruction of a table word is what the host issues next; a wire byte also needs its place in a frame
(log entry 19). -/
def State.placeWord (s : State) (nbits w : Nat) : State :=
  match tableRecord nbits w with
  | some (_, record) => s.issue (.record record)
  | none =>
    match tableWire nbits w with
    | some (_, b, place) => (s.atPlace place).issue (.wire b)
    | none => s.issue (.record (tableBytes nbits w))

end Sys2Proof.Machine
end

