-- ==== Sys2Proof/Machine/Step.lean ====
section
/-! DEFINITION. One step of the machine: the next thing the host issues is decoded and executed. -/

namespace Sys2Proof.Machine

/-- One step. With a fault recorded there is none (60_exceptions.md R206). With nothing issued the block waits
(70_reset_and_hazards.md R231). Otherwise the next request is taken and its instruction executed; a request the
decoder refuses is refused by its name (30_encoding.md R74). -/
def step (s : State) : Host.Outcome State Fault Refusal :=
  match s.fault, fetch s with
  | some record, _ => .fault (.stopped record)
  | none, none => .next s
  | none, some (.ok i, s') => exec i s'
  | none, some (.error e, _) => .refused e

/-- The state in which the next step runs the instruction of a table word (log entry 19). -/
def State.withFetchWord (s : State) (nbits w : Nat) : State := s.placeWord nbits w

end Sys2Proof.Machine
end

