-- ==== Sys2Proof/Machine/Construct.lean ====
section
/-! DEFINITION. Which configurations are legal, and construction, the block's only reset. -/

namespace Sys2Proof

/-- Exactly one bit of a byte is set: it is one of the eight powers of two. -/
def oneBit (b : Byte) : Bool := (List.range 8).any fun i => b == (1 : Byte) <<< i

/-- The constraints on the command parameters (41_command_encoder.md R131). -/
def Config.commandsLegal (c : Config) : Bool :=
  c.cmdAddrBase &&& 0x07 == 0 && c.cmdDispBase &&& 0x07 == 0 &&
    oneBit c.dispOnBit && c.dispOnBit &&& 0x07 == 0 && c.dispOnBit &&& c.cmdDispBase == 0

/-- The entries every GLYPH holds: ' ', '0' and '1' (42_glyph.md R141). -/
def Config.glyphLegal (c : Config) : Bool :=
  c.glyph[0] == 0x00 && c.glyph[16] == 0x3F && c.glyph[17] == 0x06

/-- A legal configuration (00_scope.md R8 to R12, 60_exceptions.md R209). -/
def Config.legal (c : Config) : Bool :=
  c.clkPin != c.dioPin && decide (1 ≤ c.digits) && decide (c.digits ≤ 6) && c.commandsLegal && c.glyphLegal

/-- The configuration is legal. -/
abbrev Config.Legal (c : Config) : Prop := c.legal = true

namespace Machine

/-- Construction: a block in reset state, or a refusal that gives no block at all (44_controller.md R183,
60_exceptions.md R209, 70_reset_and_hazards.md R230). -/
def construct (c : Config) : Option State := if c.legal then some (State.ofConfig c) else none

end Machine

end Sys2Proof
end

