-- ==== Sys2Proof/Machine/Wire.lean ====
section
/-! DEFINITION. The wire contract: the wire trace of an action trace (40_protocol.md R115), the receiver's symbols
(R116), its frames (R117) and the view they give (R118), computed from the action trace alone. R116 to R118 are
claimed only for a half-bit delay the receiver accepts (70_reset_and_hazards.md R235). -/

namespace Sys2Proof.Machine

/-- One pair of the wire trace (R115), and whether the block drove DIO then. -/
structure WireStep where
  clk : Level
  dio : Level
  driven : Bool
  deriving DecidableEq, Repr

/-- The receiver's symbols (R116). -/
inductive Symbol where
  | start
  | stop
  | bit (v : Level)
  | ack (a : Level)
  deriving DecidableEq, Repr

/-- What has been read off an action trace so far: the replayed lines and the wire trace (R115), and what a receiver that
accepts the half-bit delay reads from it (R116, R117). -/
structure Wire where
  /-- The replayed CLK driver. -/
  clk : Line
  /-- The replayed DIO driver. -/
  dio : Line
  /-- The level the receiver drives in the current acknowledgement pulse, once it is sampled. -/
  pulse : Option Level
  /-- The last recorded levels of CLK and DIO. -/
  levels : Level × Level
  /-- The wire trace (R115). -/
  steps : List WireStep
  /-- What the current clock-high interval emits if DIO does not change inside it. -/
  edge : Option Symbol
  /-- The receiver's symbols (R116). -/
  symbols : List Symbol
  /-- The bits of the byte being received. -/
  bits : List Level
  /-- The open frame. -/
  frame : Option (List (Byte × Bool))
  /-- The complete frames, oldest first (R117). -/
  frames : List (List (Byte × Bool))
  /-- Symbols that fit no frame. -/
  stray : List Symbol
  deriving DecidableEq, Repr

/-- Before any action: the reset line state, both lines released and reading 1 (R115). -/
def Wire.reset : Wire where
  clk := ⟨.input, .low⟩
  dio := ⟨.input, .low⟩
  pulse := none
  levels := (.high, .high)
  steps := []
  edge := none
  symbols := []
  bits := []
  frame := none
  frames := []
  stray := []

/-- The level of CLK: a driven line is at its level, a released line at 1 (R115, 10_state.md R27). -/
def Wire.clkLevel (w : Wire) : Level :=
  match w.clk.dir with
  | .output => w.clk.out
  | .input => .high

/-- The level of DIO: as CLK, but a released DIO is at the sampled level during an acknowledgement pulse (R115). -/
def Wire.dioLevel (w : Wire) : Level :=
  match w.dio.dir with
  | .output => w.dio.out
  | .input => w.pulse.getD .high

/-- The byte of eight bits, v0 + 2·v1 + ... + 128·v7 (R117). -/
def byteOfBits (bits : List Level) : Byte := BitVec.ofNat 8 (bits.foldr (fun v n => v.toBit.toNat + 2 * n) 0)

/-- A symbol extends the frames: `START (BIT ×8 ACK)* STOP` (R117). One that does not fit is stray. -/
def Wire.accept (sym : Symbol) (w : Wire) : Wire :=
  match sym, w.frame with
  | .start, none => { w with frame := some [], bits := [] }
  | .bit v, some _ => if w.bits.length < 8 then { w with bits := w.bits ++ [v] } else { w with stray := w.stray ++ [sym] }
  | .ack a, some f =>
    if w.bits.length = 8 then { w with frame := some (f ++ [(byteOfBits w.bits, ackOf a)]), bits := [] }
    else { w with stray := w.stray ++ [sym] }
  | .stop, some f =>
    if w.bits.length = 0 then { w with frame := none, frames := w.frames ++ [f] } else { w with stray := w.stray ++ [sym] }
  | _, _ => { w with stray := w.stray ++ [sym] }

/-- A symbol is emitted. -/
def Wire.emit (sym : Symbol) (w : Wire) : Wire := { w with symbols := w.symbols ++ [sym] }.accept sym

/-- The symbol a change of levels emits (R116). Inside a clock-high interval each DIO fall is START and each rise
STOP. A rising CLK edge opens an interval that will be BIT if DIO is driven and ACK if it is released, and that emits
it at the falling edge unless DIO changed. -/
def Wire.observe (before now : Level × Level) (w : Wire) : Wire :=
  match before.1, now.1 with
  | .high, .high => { w with edge := none }.emit (if now.2 = Level.low then Symbol.start else Symbol.stop)
  | .low, .high => { w with edge := some (if w.dio.dir = .output then .bit now.2 else .ack now.2) }
  | .high, .low =>
    match w.edge with
    | some sym => { w with edge := none }.emit sym
    | none => w
  | .low, .low => w

/-- Record the levels if one has changed (R115). -/
def Wire.settle (w : Wire) : Wire :=
  let now : Level × Level := (w.clkLevel, w.dioLevel)
  if now = w.levels then w
  else
    { w with levels := now, steps := w.steps ++ [WireStep.mk now.1 now.2 (decide (w.dio.dir = Dir.output))] }.observe w.levels now

/-- What an action does to the drivers and to the pulse. `Delay` changes no level (R115). -/
def Wire.drive (a : Action) (w : Wire) : Wire :=
  match a with
  | .clkSet .low => { w with clk := ⟨.output, .low⟩, pulse := none }
  | .clkSet .high => { w with clk := ⟨.output, .high⟩ }
  | .dioSet v => { w with dio := ⟨.output, v⟩ }
  | .dioRelease => { w with dio := { w.dio with dir := .input } }
  | .clkRelease => { w with clk := { w.clk with dir := .input } }
  | .dioSample a => { w with pulse := some a }
  | .delay _ => w

/-- The action opens an acknowledgement pulse: CLK rises while DIO is released. -/
def Wire.opensPulse (a : Action) (w : Wire) : Bool :=
  decide (a = .clkSet .high) && decide (w.clkLevel = .low) && decide (w.dio.dir = .input)

/-- One action. DIO takes the pulse's sampled level at the instant CLK rises (R115), so the pair of that edge is
recorded at the next action, which is the sample. -/
def Wire.feed (w : Wire) (a : Action) : Wire :=
  if w.opensPulse a then w.drive a else (w.drive a).settle

/-- An action trace read from the reset line state (R115). -/
def Wire.ofTrace (trace : List Action) : Wire := trace.foldl Wire.feed .reset

/-- The wire trace of an action trace: the (CLK, DIO) pairs (R115). -/
def wireTrace (trace : List Action) : List (Level × Level) := (Wire.ofTrace trace).steps.map fun p => (p.clk, p.dio)

/-- What the receiver reads off an action trace: nothing is claimed of it, `none`, where the half-bit delay is not one
the receiver accepts (70_reset_and_hazards.md R235). -/
def received (c : Config) (trace : List Action) : Option Wire :=
  if c.slowEnough then some (Wire.ofTrace trace) else none

/-- The receiver's symbols (R116), where the wire contract is claimed (R235). -/
def symbolsOfTrace (c : Config) (trace : List Action) : Option (List Symbol) := (received c trace).map (·.symbols)

/-- The receiver's complete frames, oldest first (R117), where the wire contract is claimed (R235). -/
def framesOfTrace (c : Config) (trace : List Action) : Option (List (List (Byte × Bool))) :=
  (received c trace).map (·.frames)

/-- The view after the complete frames of an action trace, from power-up (R118). Where the wire contract is not claimed
it is unknown (R240). -/
def viewOfTrace (c : Config) (trace : List Action) : View :=
  match framesOfTrace c trace with
  | some frames => frames.foldl (fun v f => v.complete c f) .unknown
  | none => .unknown

/-- The microseconds that pass at least while a trace's actions happen: the sum of its delays (R107,
70_reset_and_hazards.md R243). -/
def leastMicroseconds (trace : List Action) : Nat :=
  (trace.map fun a => match a with
    | .delay us => us
    | .clkSet _ | .dioSet _ | .dioRelease | .clkRelease | .dioSample _ => 0).sum

/-- How many of a trace's actions are delays (R119, 70_reset_and_hazards.md R242). -/
def delayCount (trace : List Action) : Nat :=
  trace.countP fun a => match a with
    | .delay _ => true
    | .clkSet _ | .dioSet _ | .dioRelease | .clkRelease | .dioSample _ => false

end Sys2Proof.Machine
end

