-- ==== Sys2Proof/Safety.lean ====
section
/-! DEFINITION. The terms the claims are stated in: the action lists of the protocol rules written out, the samples a
state will take, configurations whose command families differ, and the invariants of a consistent state. -/

namespace Sys2Proof

/-- No command byte belongs to two families, so that each family's byte is read back as itself (30_encoding.md R81,
log entry 14). The defaults are so. -/
def Config.familiesDistinct (c : Config) : Bool :=
  c.cmdData &&& 0xF8 != c.cmdAddrBase && c.cmdData &&& ~~~(0x07 ||| c.dispOnBit) != c.cmdDispBase &&
    c.cmdAddrBase &&& ~~~(0x07 ||| c.dispOnBit) != c.cmdDispBase

namespace Machine

/-! ### The action lists of the protocol rules, for a half-bit delay of `us` -/

/-- START's actions (40_protocol.md R101). -/
def startActions (us : Nat) : List Action := [.dioSet .low, .delay us]

/-- STOP's actions (R104). -/
def stopActions (us : Nat) : List Action :=
  [.dioSet .low, .delay us, .clkSet .high, .delay us, .dioSet .high, .delay us]

/-- The six actions of one bit of WRITEBYTE (R108). -/
def bitActions (us : Nat) (v : Bool) : List Action :=
  [.clkSet .low, .dioSet (.ofBit v), .delay us, .clkSet .high, .delay us, .clkSet .low]

/-- WRITEBYTE's actions with sampled level `a` (R108): bits 0 to 7, then the acknowledgement pulse. -/
def byteActions (us : Nat) (b : Byte) (a : Level) : List Action :=
  bitActions us (b.getLsbD 0) ++ bitActions us (b.getLsbD 1) ++ bitActions us (b.getLsbD 2) ++
    bitActions us (b.getLsbD 3) ++ bitActions us (b.getLsbD 4) ++ bitActions us (b.getLsbD 5) ++
    bitActions us (b.getLsbD 6) ++ bitActions us (b.getLsbD 7) ++
    [.dioRelease, .clkSet .high, .dioSample a, .delay us, .clkSet .low]

/-- A transaction's actions: START, each byte with its sampled level, STOP (R113). -/
def frameActions (us : Nat) (sent : List (Byte × Level)) : List Action :=
  startActions us ++ sent.flatMap (fun x => byteActions us x.1 x.2) ++ stopActions us

/-- The level of the k-th coming sample, counted from 0: what the outside world has fixed, else the free value
(20_memory.md R57). -/
def State.sampleAt (s : State) (k : Nat) : Level := (s.samples[k]?).getD (Config.freeAck (s.draws + k))

/-- Bytes sent one after another, each with the level its sample takes, the first of them being sample `k`. -/
def State.sentFrom (s : State) (k : Nat) (bytes : List Byte) : List (Byte × Level) :=
  bytes.mapIdx fun i b => (b, s.sampleAt (k + i))

/-- Bytes with their acknowledgement results, as the receiver's frame holds them. -/
def acked (sent : List (Byte × Level)) : List (Byte × Bool) := sent.map fun x => (x.1, ackOf x.2)

/-- The lines at an operation boundary, by phase (10_state.md R28). -/
def State.LinesFollowPhase (s : State) : Prop :=
  match s.phase with
  | .uninit | .closed => s.clk.dir = .input ∧ s.dio.dir = .input
  | .idle => s.clk = ⟨.output, .high⟩ ∧ s.dio = ⟨.output, .high⟩
  | .started => s.clk = ⟨.output, .high⟩ ∧ s.dio = ⟨.output, .low⟩
  | .writing => s.clk = ⟨.output, .low⟩ ∧ s.dio.dir = .input

/-- The receiver's open frame, by phase: none outside a transaction, an empty one after START, one with a byte after
WRITEBYTE (10_state.md R24, R25). -/
def State.FrameFollowsPhase (s : State) : Prop :=
  match s.phase with
  | .uninit | .closed | .idle => s.rx.frame = none
  | .started => s.rx.frame = some []
  | .writing => ∃ first rest, s.rx.frame = some (first :: rest)

/-- The display memory is in canonical form and holds positions 0 to DIGITS - 1 only (20_memory.md R52). -/
def State.DisplayInRange (s : State) : Prop :=
  s.rx.view.disp.wf ∧ ∀ cell ∈ s.rx.view.disp, cell.1 < s.cfg.digits

/-- Replaying the action trace gives the lines of the state, with every level recorded in the wire trace and no
acknowledgement pulse open (40_protocol.md R115). -/
def State.LinesReplay (s : State) : Prop :=
  let w := Wire.ofTrace s.trace
  w.clk = s.clk ∧ w.dio = s.dio ∧ w.levels = (w.clkLevel, w.dioLevel) ∧ w.pulse = none

/-- The receiver of the state is the receiver that the action trace gives through its symbols and its frames, with no
symbol left over (40_protocol.md R116 to R118). Symbols and frames are claimed only where the half-bit delay is one the
receiver accepts (70_reset_and_hazards.md R235); the view is unknown elsewhere. -/
def State.WireAgrees (s : State) : Prop :=
  (∀ w, received s.cfg s.trace = some w → w.edge = none ∧ w.bits = [] ∧ w.stray = [] ∧ w.frame = s.rx.frame) ∧
    viewOfTrace s.cfg s.trace = s.rx.view

/-- The invariant of the whole machine. -/
structure State.Consistent (s : State) : Prop where
  lines : s.LinesFollowPhase
  frame : s.FrameFollowsPhase
  display : s.DisplayInRange
  replay : s.LinesReplay
  wire : s.WireAgrees

/-- A safe run has no fault recorded: every operation came in an order the source's state machine allows
(60_exceptions.md R202, R203, R206). -/
def State.Safe (s : State) : Prop := s.fault = none

end Machine

end Sys2Proof

open Sys2Proof Sys2Proof.Machine

/-! ### Terms of the statements -/

namespace Sys2Proof.Claims

/-- The operations that need configured lines (60_exceptions.md R202). -/
def needsOpenLines : Instr → Bool
  | .start | .stop | .writeByte _ => true
  | .setSegments _ _ _ | .displayClear | .setBrightness _ _ => true
  | .displayDecimal _ _ _ _ | .displayDecimalWDot _ _ _ _ _ | .displayString _ _ _ _ => true
  | .bitDelay | .encData | .encAddr _ | .encDisp _ _ | .encodeCharacter _ => false
  | .encodeDecimal _ _ _ | .encodeDecimalWithDot _ _ _ _ | .encodeString _ _ _ _ => false
  | .displayBegin | .displayClose => false
  | .wireCmdData | .wireCmdAddr _ | .wireCmdDisp _ _ | .wireSegment _ _ _ _ _ _ _ _ => false

/-- The transmitting operations of the Controller (44_controller.md section 2 and 3). -/
def transmits : Instr → Bool
  | .setSegments _ _ _ | .displayClear | .setBrightness _ _ => true
  | .displayDecimal _ _ _ _ | .displayDecimalWDot _ _ _ _ _ | .displayString _ _ _ _ => true
  | .start | .stop | .bitDelay | .writeByte _ => false
  | .encData | .encAddr _ | .encDisp _ _ | .encodeCharacter _ => false
  | .encodeDecimal _ _ _ | .encodeDecimalWithDot _ _ _ _ | .encodeString _ _ _ _ => false
  | .displayBegin | .displayClose => false
  | .wireCmdData | .wireCmdAddr _ | .wireCmdDisp _ _ | .wireSegment _ _ _ _ _ _ _ _ => false

/-- The operations and byte kinds that are called on the bus directly, below the Controller. -/
def isPrimitive : Instr → Bool
  | .start | .stop | .bitDelay | .writeByte _ => true
  | .wireCmdData | .wireCmdAddr _ | .wireCmdDisp _ _ | .wireSegment _ _ _ _ _ _ _ _ => true
  | .encData | .encAddr _ | .encDisp _ _ | .encodeCharacter _ => false
  | .encodeDecimal _ _ _ | .encodeDecimalWithDot _ _ _ _ | .encodeString _ _ _ _ => false
  | .displayBegin | .displayClose | .displayClear | .setBrightness _ _ | .setSegments _ _ _ => false
  | .displayDecimal _ _ _ _ | .displayDecimalWDot _ _ _ _ _ | .displayString _ _ _ _ => false

/-- The instruction sends at least one byte on the wire when it completes, and so writes the last acknowledgement. -/
def sendsBytes (i : Instr) : Bool :=
  transmits i || match i with
    | .writeByte _ | .wireCmdData | .wireCmdAddr _ | .wireCmdDisp _ _ | .wireSegment _ _ _ _ _ _ _ _ => true
    | _ => false

/-- Setting the brightness. -/
def isSetBrightness : Instr → Bool
  | .setBrightness _ _ => true
  | _ => false

/-- Instruction `i` raises the fault: it records the code and changes nothing else but what the host is told
(60_exceptions.md R206). -/
def Raises (i : Instr) (s : State) (code : FaultCode) : Prop :=
  ∃ t r, exec i s = .next t ∧ t.fault = some r ∧ r.code = code ∧ t = { s with fault := t.fault, replies := t.replies }

/-- With a fault recorded, instruction `i` takes no step (60_exceptions.md R206). -/
def StopsOnFault (i : Instr) : Prop := ∀ s r, s.fault = some r → exec i s = .fault (.stopped r)

/-- What makes a configuration illegal (60_exceptions.md R209, 41_command_encoder.md R131). -/
def illegal (c : Config) : Prop :=
  c.clkPin = c.dioPin ∨ c.digits < 1 ∨ 6 < c.digits ∨ c.cmdAddrBase &&& 0x07 ≠ 0 ∨ c.cmdDispBase &&& 0x07 ≠ 0 ∨
    (∀ k < 8, c.dispOnBit ≠ BitVec.twoPow 8 k) ∨ c.dispOnBit &&& 0x07 ≠ 0 ∨ c.dispOnBit &&& c.cmdDispBase ≠ 0

/-- The bus is not open: UNINIT or CLOSED. -/
def NotOpen (s : State) : Prop := s.phase = .uninit ∨ s.phase = .closed

/-- Inside a transaction: STARTED or WRITING. -/
def InTransaction (s : State) : Prop := s.phase = .started ∨ s.phase = .writing

/-- Where an operation would break the transaction state machine (60_exceptions.md R203): START, DISPLAYBEGIN,
DISPLAYCLOSE and every transmitting operation in a transaction, STOP and WRITEBYTE in IDLE. -/
def BreaksFraming (i : Instr) (s : State) : Prop :=
  (i = .start ∨ i = .displayBegin ∨ i = .displayClose ∨ transmits i = true) ∧ InTransaction s ∨
    (i = .stop ∨ ∃ byte, i = .writeByte byte) ∧ s.phase = .idle

/-- What the host was told last. -/
def lastReply (s : State) : Option Reply := s.replies.getLast?

/-- The ids of 30_encoding.md R74, which spell no operation. -/
def reservedId (op : Byte) : Prop :=
  op.toNat = 0x00 ∨ (0x05 ≤ op.toNat ∧ op.toNat ≤ 0x07) ∨ (0x0B ≤ op.toNat ∧ op.toNat ≤ 0x0F) ∨
    (0x11 ≤ op.toNat ∧ op.toNat ≤ 0x17) ∨ (0x1B ≤ op.toNat ∧ op.toNat ≤ 0x1F) ∨
    (0x25 ≤ op.toNat ∧ op.toNat ≤ 0x27) ∨ 0x2B ≤ op.toNat

/-- The byte is the command byte of none of the three families (30_encoding.md R77, R78, R80). -/
def NoCommand (c : Config) (b : Byte) : Prop :=
  b ≠ c.cmdData ∧ (∀ pos : BitVec 3, b ≠ c.cmdAddrBase ||| pos.setWidth 8) ∧
    ∀ (on : Bool) (level : BitVec 3), b ≠ c.cmdDispBase ||| (if on then c.dispOnBit else 0) ||| level.setWidth 8

/-- The place a wire byte kind stands at (30_encoding.md R81). -/
def wirePlace : Instr → Place
  | .wireSegment _ _ _ _ _ _ _ _ => .segment
  | _ => .command

/-- The buffer length, the length and the position that a range-checked operation is checked with
(44_controller.md R174): a formatted buffer has exactly the length asked for. -/
def rangeOf : Instr → Option (Nat × Nat × Nat)
  | .setSegments buffer length position => some (buffer.length, length.toNat, position.toNat)
  | .displayDecimal _ _ length position => some (length.toNat, length.toNat, position.toNat)
  | .displayDecimalWDot _ _ _ length position => some (length.toNat, length.toNat, position.toNat)
  | .displayString _ _ length position => some (length.toNat, length.toNat, position.toNat)
  | _ => none

/-- The operation id a fault of an instruction records: the operation's own id in 30_encoding.md R73, and WRITEBYTE's
for a wire byte (log entries 5 and 6). -/
def recordedId : Instr → Byte
  | .start => 0x01
  | .stop => 0x02
  | .bitDelay => 0x03
  | .writeByte _ => 0x04
  | .encData => 0x08
  | .encAddr _ => 0x09
  | .encDisp _ _ => 0x0A
  | .encodeCharacter _ => 0x10
  | .encodeDecimal _ _ _ => 0x18
  | .encodeDecimalWithDot _ _ _ _ => 0x19
  | .encodeString _ _ _ _ => 0x1A
  | .displayBegin => 0x20
  | .displayClose => 0x21
  | .displayClear => 0x22
  | .setBrightness _ _ => 0x23
  | .setSegments _ _ _ => 0x24
  | .displayDecimal _ _ _ _ => 0x28
  | .displayDecimalWDot _ _ _ _ _ => 0x29
  | .displayString _ _ _ _ => 0x2A
  | .wireCmdData | .wireCmdAddr _ | .wireCmdDisp _ _ | .wireSegment _ _ _ _ _ _ _ _ => 0x04

/-- The phase transitions of 10_state.md R25. -/
def Transition (p : Phase) (i : Instr) (q : Phase) : Prop :=
  match i with
  | .displayBegin => (p = .uninit ∨ p = .closed ∨ p = .idle) ∧ q = .idle
  | .start => p = .idle ∧ q = .started
  | .writeByte _ => (p = .started ∨ p = .writing) ∧ q = .writing
  | .wireCmdData | .wireCmdAddr _ | .wireCmdDisp _ _ | .wireSegment _ _ _ _ _ _ _ _ =>
    (p = .started ∨ p = .writing) ∧ q = .writing
  | .stop => (p = .started ∨ p = .writing) ∧ q = .idle
  | .displayClose => (p = .idle ∨ p = .uninit ∨ p = .closed) ∧ q = .closed
  | .setSegments _ _ _ | .displayClear | .setBrightness _ _ => p = .idle ∧ q = .idle
  | .displayDecimal _ _ _ _ | .displayDecimalWDot _ _ _ _ _ | .displayString _ _ _ _ => p = .idle ∧ q = .idle
  | .bitDelay | .encData | .encAddr _ | .encDisp _ _ | .encodeCharacter _ => q = p
  | .encodeDecimal _ _ _ | .encodeDecimalWithDot _ _ _ _ | .encodeString _ _ _ _ => q = p

/-- How many segment bytes the second frame of SETSEGMENTS and of the operations over it carries (44_controller.md R173,
R177, R179 to R181); `none` for every other instruction. -/
def segmentsOf (c : Config) : Instr → Option Nat
  | .setSegments _ length _ => some length.toNat
  | .displayClear => some c.digits
  | .displayDecimal _ _ length _ | .displayDecimalWDot _ _ _ length _ | .displayString _ _ length _ => some length.toNat
  | .start | .stop | .bitDelay | .writeByte _ => none
  | .encData | .encAddr _ | .encDisp _ _ | .encodeCharacter _ => none
  | .encodeDecimal _ _ _ | .encodeDecimalWithDot _ _ _ _ | .encodeString _ _ _ _ => none
  | .displayBegin | .displayClose | .setBrightness _ _ => none
  | .wireCmdData | .wireCmdAddr _ | .wireCmdDisp _ _ | .wireSegment _ _ _ _ _ _ _ _ => none

/-- How many actions an instruction appends when it completes with status OK (40_protocol.md R119,
70_reset_and_hazards.md R242). -/
def actionCount (c : Config) (i : Instr) : Nat :=
  match segmentsOf c i, i with
  | some n, _ => 122 + 53 * n
  | none, .start => 2
  | none, .stop => 6
  | none, .bitDelay => 1
  | none, .setBrightness _ _ => 61
  | none, .displayBegin | none, .displayClose => 2
  | none, i => if sendsBytes i then 53 else 0

/-- How many of them are delays (R119, R242). -/
def delaysOf (c : Config) (i : Instr) : Nat :=
  match segmentsOf c i, i with
  | some n, _ => 42 + 17 * n
  | none, .start => 1
  | none, .stop => 3
  | none, .bitDelay => 1
  | none, .setBrightness _ _ => 21
  | none, i => if sendsBytes i then 17 else 0

/-- The level of a sample action. -/
def sampleOf : Action → Option Level
  | .dioSample a => some a
  | .clkSet _ | .dioSet _ | .dioRelease | .clkRelease | .delay _ => none

/-- An action without its sampled level. -/
def unsampled : Action → Action
  | .dioSample _ => .dioSample .low
  | .clkSet v => .clkSet v
  | .dioSet v => .dioSet v
  | .dioRelease => .dioRelease
  | .clkRelease => .clkRelease
  | .delay us => .delay us

/-- The value of a sequence of ASCII decimal digits, most significant first. -/
def decimalValue (digits : List Byte) : Nat := digits.foldl (fun n d => 10 * n + (d.toNat - 0x30)) 0

/-- The sign and the digits of a value (43_formatter.md R151). -/
def signedDigits (v : BitVec 32) : List Byte := (if v.toInt < 0 then [0x2D] else []) ++ decimalDigits v

/-- The character of slot k of a decimal value in `len` slots (43_formatter.md R151 to R154). -/
def decimalSlot (v : BitVec 32) (leadingZero : Bool) (len k : Nat) : Option Byte :=
  let n := (signedDigits v).length
  if len ≤ n then (signedDigits v)[n - len + k]?
  else if leadingZero = false then if k < len - n then some 0x20 else (signedDigits v)[k - (len - n)]?
  else if 0 ≤ v.toInt then if k < len - n then some 0x30 else (decimalDigits v)[k - (len - n)]?
  else if k = 0 then some 0x2D
  else if k ≤ len - n then some 0x30
  else (decimalDigits v)[k - (len - n) - 1]?

/-- The glyph of a character: the table for 0x20 to 0x7F, blank elsewhere (42_glyph.md R140, R143). -/
def glyph (c : Config) (ch : Byte) : Option Byte :=
  if 0x20 ≤ ch.toNat ∧ ch.toNat ≤ 0x7F then c.glyph[ch.toNat - 0x20]? else some 0x00

/-- A slot with the dp/colon bit where the mask selects it (43_formatter.md R164). -/
def dotted (m : Byte) (k : Nat) (v : Byte) : Byte := if k ≤ 7 ∧ m.getLsbD k = true then v ||| 0x80 else v

/-- The character of slot k of a text: the elements before its first 0x00 (43_formatter.md R160, R161). -/
def textSlot (t : List Byte) (k : Nat) : Option Byte := if 0x00 ∈ t.take (k + 1) then none else t[k]?

/-- A sequence of instructions, all of which complete. -/
def runAll : List Instr → State → Option State
  | [], s => some s
  | i :: is, s =>
    match exec i s with
    | .next t => runAll is t
    | .fault _ => none
    | .refused _ => none

/-- The state without what the host was told. -/
def silent (s : State) : State := { s with replies := [] }

end Sys2Proof.Claims
end

