-- ==== Sys2Proof/Certificates/Slice0/Obligations.lean ====
section
/-! DEFINITION. The statements for the provers, in the order of the spec's files. -/

open Sys2Proof Sys2Proof.Machine

open Sys2Proof.Claims

/-! ### 10_state.md -/

/-- R38: every field after construction, each the spec's own choice there (its decision D21). That State.reset is the
construction of a legal configuration with the defaults DIGITS = 4 and BIT_DELAY_US = 75 rests on log entries 10 to 12 and
16. -/
def Obligations.ResetState : Prop :=
  (∀ c : Config,
    let s := State.ofConfig c
    s.cfg = c ∧ s.bright = none ∧ s.phase = .uninit ∧ s.clk = ⟨.input, .low⟩ ∧ s.dio = ⟨.input, .low⟩ ∧
      s.lastAck = none ∧ s.fault = none ∧ s.trace = []) ∧
    (∃ c : Config, c.Legal ∧ State.reset = State.ofConfig c ∧ c.digits = 4 ∧ c.bitDelayUs = 75)

/-- R25: the phase transitions of an operation are the table's, and any other requested transition is a fault that leaves
the phase. -/
def Obligations.PhaseTransitionsAreTheTable : Prop :=
  (∀ i s t, i.isOperation = true → exec i s = .next t → t.fault = none → Transition s.phase i t.phase) ∧
    (∀ i s t, i.isOperation = true → exec i s = .next t → t.fault ≠ none → t.phase = s.phase) ∧
    (∀ i s, i.isOperation = true → s.fault = none → (∀ q, ¬Transition s.phase i q) →
      Raises i s .notOpen ∨ Raises i s .framing)

/-- R22, R32: no instruction writes the configuration or the glyph table, and the trace only grows at its end. -/
def Obligations.ConfigurationConstantTraceAppendOnly : Prop :=
  ∀ s t, step s = .next t → t.cfg = s.cfg ∧ ∃ appended, t.trace = s.trace ++ appended

/-- R23: only SETBRIGHTNESS writes the brightness register. -/
def Obligations.BrightnessWrittenOnlyBySetBrightness : Prop :=
  ∀ i s t, exec i s = .next t → isSetBrightness i = false → t.bright = s.bright

/-- R29: only the operations that send a byte write the last acknowledgement, and the last sample they append decides
it. That a wire byte kind is such an operation is log entry 6. -/
def Obligations.LastAckIsTheLastSample : Prop :=
  ∀ i s t, exec i s = .next t →
    (sendsBytes i = false → t.lastAck = s.lastAck) ∧
      (∀ appended a, t.trace = s.trace ++ appended → (appended.filterMap sampleOf).getLast? = some a →
        t.lastAck = some (decide (a = .low))) ∧
      (∀ appended, t.trace = s.trace ++ appended → appended.filterMap sampleOf = [] → t.lastAck = s.lastAck)

/-! ### 20_memory.md -/

/-- R57: each sample an instruction takes is the next level of the outside world, in order, and the free value where
that fixed none (log entry 2); an instruction takes as many levels as it appends samples. -/
def Obligations.SamplesAreDrawnInOrder : Prop :=
  ∀ i s t, exec i s = .next t → ∃ n appended, t.trace = s.trace ++ appended ∧
    appended.filterMap sampleOf = (List.range n).map s.sampleAt ∧ t.samples = s.samples.drop n ∧ t.draws = s.draws + n

/-- R52: the display memory stays in canonical form and inside the display at every step. The form is the model's (log
entry 7). -/
def Obligations.StepKeepsDisplayInRange : Prop :=
  ∀ s t, s.DisplayInRange → step s = .next t → t.DisplayInRange

/-- R61: the same SETSEGMENTS twice, acknowledged, appends the same actions again and leaves the receiver and the block's
registers as once. -/
def Obligations.RepeatedSetSegmentsIsIdempotent : Prop :=
  ∀ s buffer length position, s.fault = none → s.phase = .idle → s.DisplayInRange →
    position.toNat < s.cfg.digits → length.toNat ≤ s.cfg.digits - position.toNat → length.toNat ≤ buffer.length →
    (∀ k, k < 2 * (length.toNat + 2) → s.sampleAt k = .low) →
    ∃ t u actions, exec (.setSegments buffer length position) s = .next t ∧
      exec (.setSegments buffer length position) t = .next u ∧
      t.trace = s.trace ++ actions ∧ u.trace = t.trace ++ actions ∧ u.rx = t.rx ∧ u.bright = t.bright ∧
      u.lastAck = t.lastAck ∧ u.phase = t.phase ∧ u.clk = t.clk ∧ u.dio = t.dio

/-! ### 30_encoding.md -/

/-- R71, R73: decoding an operation's record gives the operation back, with every operand at every value. -/
def Obligations.RecordDecodeEncodeAgree : Prop :=
  ∀ (c : Config) (i : Instr), i.WellFormed → i.isOperation = true → decodeRecord (encode c i) = .ok i

/-- R77 to R81: a wire byte read at its place gives its kind and operands back, and every byte is a segment byte. The
places, and the order in which the families are tried, are log entries 6 and 14; that the address command of a position at
or past DIGITS, to which R82 gives no meaning, is of its kind is the model's choice (log entry 23). -/
def Obligations.WireByteDecodeEncodeAgree : Prop :=
  (∀ (c : Config) (i : Instr), c.Legal → c.familiesDistinct = true → i.isOperation = false →
      ∃ b, encode c i = [b] ∧ decodeWire c (wirePlace i) b = .ok i) ∧
    (∀ (c : Config) (b : Byte), ∃ i, decodeWire c .segment b = .ok i ∧ encode c i = [b])

/-- R71, R73, R77 to R80: records and wire bytes written out from the spec (95_test_vectors.md V-E1 to V-E10). -/
def Obligations.SpecWordsDecode : Prop :=
  decodeRecord [0x01] = .ok .start ∧
    decodeRecord [0x04, 0x06] = .ok (.writeByte 0x06) ∧
    decodeRecord [0x0A, 0x07, 0x01] = .ok (.encDisp 7 true) ∧
    decodeRecord [0x10, 0x31] = .ok (.encodeCharacter 0x31) ∧
    decodeRecord [0x18, 0xE9, 0xFF, 0xFF, 0xFF, 0x00, 0x04] = .ok (.encodeDecimal (BitVec.ofInt 32 (-23)) false 4) ∧
    decodeRecord [0x1A, 0x04, 0x4F, 0x50, 0x45, 0x4E, 0x00, 0x04, 0x00] =
      .ok (.encodeString [0x4F, 0x50, 0x45, 0x4E] 0 4 0) ∧
    decodeRecord [0x24, 0x02, 0x3F, 0x06, 0x02, 0x01] = .ok (.setSegments [0x3F, 0x06] 2 1) ∧
    decodeRecord [0x29, 0xD2, 0x04, 0x00, 0x00, 0x02, 0x00, 0x04, 0x00] =
      .ok (.displayDecimalWDot 1234 2 false 4 0) ∧
    decodeWire defaultConfig .command 0x40 = .ok .wireCmdData ∧
    decodeWire defaultConfig .command 0xC3 = .ok (.wireCmdAddr 3) ∧
    decodeWire defaultConfig .command 0x8A = .ok (.wireCmdDisp true 2) ∧
    decodeWire defaultConfig .segment 0x06 = .ok (.wireSegment false false false false false true true false)

/-- R74: a reserved id spells no operation; the decoder refuses it by name and nothing is performed. -/
def Obligations.ReservedIdsRefused : Prop :=
  ∀ (op : Byte) (args : List Byte), reservedId op →
    decodeRecord (op :: args) = .error (.reservedOperationId op) ∧
      ∀ s rest, s.fault = none → s.requests = .record (op :: args) :: rest →
        step s = .refused (.record (.reservedOperationId op))

/-- R71: a record that ends early, has bytes left over or has a malformed bool is refused, by that name. That
a malformed bool gives the name whatever comes after it, also in a record that ends early or has bytes left over, is the
model's choice (log entry 24). -/
def Obligations.MalformedRecordsRefused : Prop :=
  (∀ (c : Config) (i : Instr) (b : Byte) (rest : List Byte), i.WellFormed → i.isOperation = true →
      decodeRecord (encode c i ++ b :: rest) = .error .bytesLeftOver) ∧
    (∀ (c : Config) (i : Instr) (n : Nat), i.WellFormed → i.isOperation = true → n < (encode c i).length →
      decodeRecord ((encode c i).take n) = .error .endsEarly) ∧
    (∀ (b level : Byte) (rest : List Byte), 2 ≤ b.toNat →
      decodeRecord (0x0A :: level :: b :: rest) = .error (.malformedBool b) ∧
        decodeRecord (0x23 :: level :: b :: rest) = .error (.malformedBool b)) ∧
    (∀ (b v0 v1 v2 v3 m : Byte) (rest : List Byte), 2 ≤ b.toNat →
      decodeRecord (0x18 :: v0 :: v1 :: v2 :: v3 :: b :: rest) = .error (.malformedBool b) ∧
        decodeRecord (0x28 :: v0 :: v1 :: v2 :: v3 :: b :: rest) = .error (.malformedBool b) ∧
        decodeRecord (0x19 :: v0 :: v1 :: v2 :: v3 :: m :: b :: rest) = .error (.malformedBool b) ∧
        decodeRecord (0x29 :: v0 :: v1 :: v2 :: v3 :: m :: b :: rest) = .error (.malformedBool b))

/-- 44_controller.md R183, R184: a step takes the next request and executes exactly its instruction. The queue of
requests, and that a step with none waits, are log entries 1 and 17. -/
def Obligations.StepRunsTheDecodedInstruction : Prop :=
  (∀ s r rest i, s.fault = none → s.requests = r :: rest → decodeRequest s r = .ok i →
      step s = exec i { s with requests := rest }) ∧
    (∀ s bytes rest i, s.fault = none → s.requests = .record bytes :: rest → decodeRecord bytes = .ok i →
      step s = exec i { s with requests := rest }) ∧
    (∀ s, s.fault = none → s.requests = [] → step s = .next s)

/-- R84: each composite operation has the effect of its expansion into primitives, but for what the host is told and the
brightness register. -/
def Obligations.CompositesEqualTheirExpansions : Prop :=
  (∀ s buffer length position, s.fault = none → s.phase = .idle →
      position.toNat < s.cfg.digits → length.toNat ≤ s.cfg.digits - position.toNat → length.toNat ≤ buffer.length →
      ∃ t u, exec (.setSegments buffer length position) s = .next t ∧
        runAll ([.start, .writeByte s.cfg.cmdData, .stop, .start, .writeByte (s.cfg.cmdAddrBase ||| position)] ++
          (buffer.take length.toNat).map .writeByte ++ [.stop]) s = some u ∧ silent t = silent u) ∧
    (∀ s level on, s.fault = none → s.phase = .idle →
      ∃ t u, exec (.setBrightness level on) s = .next t ∧
        runAll [.start, .writeByte (s.cfg.cmdDispBase ||| (if on then s.cfg.dispOnBit else 0) ||| (level &&& 0x07)), .stop] s
          = some u ∧ silent { t with bright := s.bright } = silent u) ∧
    (∀ s, s.fault = none → s.phase = .idle → s.cfg.digits ≤ 255 →
      exec .displayClear s = exec (.setSegments (List.replicate s.cfg.digits 0) (BitVec.ofNat 8 s.cfg.digits) 0) s)

/-! ### 40_protocol.md -/

/-- R101: START. -/
def Obligations.StartCondition : Prop :=
  decodeRecord [0x01] = .ok .start ∧ StopsOnFault .start ∧ ∀ s, s.fault = none →
    (s.phase = .idle → ∃ t, exec .start s = .next t ∧ t = { s with
      phase := .started, dio := ⟨.output, .low⟩,
      trace := s.trace ++ [.dioSet .low, .delay s.cfg.bitDelayUs], rx := t.rx, replies := s.replies ++ [.ok .none] }) ∧
    (NotOpen s → Raises .start s .notOpen) ∧ (InTransaction s → Raises .start s .framing)

/-- R104: STOP, from STARTED and from WRITING. -/
def Obligations.StopCondition : Prop :=
  decodeRecord [0x02] = .ok .stop ∧ StopsOnFault .stop ∧ ∀ s, s.fault = none →
    (InTransaction s → ∃ t, exec .stop s = .next t ∧ t = { s with
      phase := .idle, clk := ⟨.output, .high⟩, dio := ⟨.output, .high⟩,
      trace := s.trace ++ [.dioSet .low, .delay s.cfg.bitDelayUs, .clkSet .high, .delay s.cfg.bitDelayUs,
        .dioSet .high, .delay s.cfg.bitDelayUs], rx := t.rx, replies := s.replies ++ [.ok .none] }) ∧
    (NotOpen s → Raises .stop s .notOpen) ∧ (s.phase = .idle → Raises .stop s .framing)

/-- R106: BITDELAY, in every phase. -/
def Obligations.BitDelayAppendsOneDelay : Prop :=
  decodeRecord [0x03] = .ok .bitDelay ∧ StopsOnFault .bitDelay ∧
    ∀ s, s.fault = none → exec .bitDelay s =
      .next { s with trace := s.trace ++ [.delay s.cfg.bitDelayUs], replies := s.replies ++ [.ok .none] }

/-- R108: WRITEBYTE. -/
def Obligations.WriteByteSendsOneByte : Prop :=
  (∀ b, decodeRecord [0x04, b] = .ok (.writeByte b) ∧ StopsOnFault (.writeByte b)) ∧ ∀ s b, s.fault = none →
    (InTransaction s → ∃ t, exec (.writeByte b) s = .next t ∧
      t = { s with
        phase := .writing, clk := ⟨.output, .low⟩, dio := ⟨.input, .ofBit (b.getLsbD 7)⟩,
        lastAck := some (decide (s.sampleAt 0 = .low)),
        trace := s.trace ++ byteActions s.cfg.bitDelayUs b (s.sampleAt 0),
        rx := t.rx, replies := s.replies ++ [.ok (.ack (decide (s.sampleAt 0 = .low)))],
        samples := s.samples.drop 1, draws := s.draws + 1 } ∧
      (byteActions s.cfg.bitDelayUs b (s.sampleAt 0)).length = 53 ∧
      delayCount (byteActions s.cfg.bitDelayUs b (s.sampleAt 0)) = 17) ∧
    (NotOpen s → Raises (.writeByte b) s .notOpen) ∧ (s.phase = .idle → Raises (.writeByte b) s .framing)

/-- R111: whether the byte is acknowledged changes only the sampled action, the result, the last acknowledgement and what
the receiver holds of the frame. -/
def Obligations.FailedAckChangesOnlyTheResult : Prop :=
  ∀ s b rest, s.fault = none → InTransaction s → ∃ t u,
    exec (.writeByte b) { s with samples := .low :: rest } = .next t ∧
      exec (.writeByte b) { s with samples := .high :: rest } = .next u ∧
      t.lastAck = some true ∧ u.lastAck = some false ∧
      lastReply t = some (.ok (.ack true)) ∧ lastReply u = some (.ok (.ack false)) ∧
      t.trace = s.trace ++ byteActions s.cfg.bitDelayUs b .low ∧
      u.trace = s.trace ++ byteActions s.cfg.bitDelayUs b .high ∧
      u = { t with lastAck := u.lastAck, replies := u.replies, trace := u.trace, rx := u.rx } ∧
      u.rx = { t.rx with frame := u.rx.frame }

/-- R118: the effect of a complete frame on the receiver view, for a delay the receiver accepts (R235) and families that no
byte confuses (log entry 14). A frame whose
bytes were all acknowledged has its effect; after any other, the fields it would write are unknown. -/
def Obligations.FrameEffectOnReceiverView : Prop :=
  (∀ c, (State.ofConfig c).rx.view = ⟨none, [], none, none⟩) ∧
    ∀ (c : Config) (v : View), c.Legal → c.familiesDistinct = true → c.slowEnough = true →
      (∀ ack, v.complete c [(c.cmdData, ack)] = { v with mode := if ack then some .autoIncrement else none }) ∧
      (∀ on (level : BitVec 3) ack,
        v.complete c [(c.cmdDispBase ||| (if on then c.dispOnBit else 0) ||| level.setWidth 8, ack)] =
          { v with on := if ack then some on else none, level := if ack then some level else none }) ∧
      (∀ (pos : BitVec 3) (ack : Bool) (payload : List (Byte × Bool)), pos.toNat < c.digits →
        pos.toNat + payload.length ≤ c.digits → v.mode = some .autoIncrement →
        let w := v.complete c ((c.cmdAddrBase ||| pos.setWidth 8, ack) :: payload)
        w = { v with disp := w.disp } ∧
          ∀ p, w.disp.read p =
            if pos.toNat ≤ p ∧ p < pos.toNat + payload.length then
              if ack = true ∧ (∀ x ∈ payload, x.2 = true) then (payload[p - pos.toNat]?).map (·.1) else none
            else v.disp.read p)

/-- 20_memory.md R62, 30_encoding.md R82, 70_reset_and_hazards.md R240: after a frame to which the spec gives no meaning
the whole view is unknown (log entries 8 and 23), and so it is after every frame with a delay the receiver need not accept
(log entry 12). An empty frame leaves the view (log entry 8). -/
def Obligations.FramesWithoutMeaningLeaveTheViewUnknown : Prop :=
  ∀ (c : Config) (v : View), c.Legal → c.familiesDistinct = true →
    (∀ (pos : BitVec 3) (ack : Bool) (payload : List (Byte × Bool)),
      c.digits ≤ pos.toNat ∨ c.digits < pos.toNat + payload.length →
      v.complete c ((c.cmdAddrBase ||| pos.setWidth 8, ack) :: payload) = ⟨none, [], none, none⟩) ∧
    (∀ first ack payload, NoCommand c first → v.complete c ((first, ack) :: payload) = ⟨none, [], none, none⟩) ∧
    (∀ first ack second more,
      (first = c.cmdData ∨ ∃ (on : Bool) (level : BitVec 3),
        first = c.cmdDispBase ||| (if on then c.dispOnBit else 0) ||| level.setWidth 8) →
      v.complete c ((first, ack) :: second :: more) = ⟨none, [], none, none⟩) ∧
    (c.bitDelayUs = 0 ∨ c.bitDelayUs < c.rxMinHalfBitUs → ∀ frame, v.complete c frame = ⟨none, [], none, none⟩) ∧
    (0 < c.bitDelayUs → c.rxMinHalfBitUs ≤ c.bitDelayUs → v.complete c [] = v)

/-! ### 41_command_encoder.md -/

/-- R132 to R135: the three command bytes, in any phase, with no effect but the result; none once a fault is recorded. -/
def Obligations.CommandEncoderBytes : Prop :=
  (decodeRecord [0x08] = .ok .encData ∧ StopsOnFault .encData ∧ ∀ s, s.fault = none →
    exec .encData s = .next { s with replies := s.replies ++ [.ok (.byte s.cfg.cmdData)] }) ∧
  (∀ pos, decodeRecord [0x09, pos] = .ok (.encAddr pos) ∧ StopsOnFault (.encAddr pos) ∧ ∀ s, s.fault = none →
    exec (.encAddr pos) s = .next { s with replies := s.replies ++ [.ok (.byte (s.cfg.cmdAddrBase ||| pos))] }) ∧
  (∀ level on, decodeRecord [0x0A, level, if on then 0x01 else 0x00] = .ok (.encDisp level on) ∧
    StopsOnFault (.encDisp level on) ∧ ∀ s, s.fault = none →
    exec (.encDisp level on) s = .next { s with replies := s.replies ++
      [.ok (.byte (s.cfg.cmdDispBase ||| (if on then s.cfg.dispOnBit else 0) ||| (level &&& 0x07)))] })

/-! ### 42_glyph.md -/

/-- R140, R143: the glyph of every character code, in any phase, with no effect but the result. -/
def Obligations.EncodeCharacterReadsTheTable : Prop :=
  ∀ ch, decodeRecord [0x10, ch] = .ok (.encodeCharacter ch) ∧ StopsOnFault (.encodeCharacter ch) ∧
    ∀ s, s.fault = none → ∃ v, glyph s.cfg ch = some v ∧
      exec (.encodeCharacter ch) s = .next { s with replies := s.replies ++ [.ok (.byte v)] }

/-- R141: every legal table has the glyphs of ' ', '0' and '1'. -/
def Obligations.FixedGlyphs : Prop :=
  ∀ s, s.fault = none → s.cfg.Legal →
    exec (.encodeCharacter 0x20) s = .next { s with replies := s.replies ++ [.ok (.byte 0x00)] } ∧
    exec (.encodeCharacter 0x30) s = .next { s with replies := s.replies ++ [.ok (.byte 0x3F)] } ∧
    exec (.encodeCharacter 0x31) s = .next { s with replies := s.replies ++ [.ok (.byte 0x06)] }

/-! ### 43_formatter.md -/

/-- R150: the decimal digits of the exact magnitude, most significant first, with no leading zero. -/
def Obligations.DecimalDigitsAreExact : Prop :=
  ∀ v : BitVec 32,
    (∀ d ∈ decimalDigits v, 0x30 ≤ d.toNat ∧ d.toNat ≤ 0x39) ∧ decimalValue (decimalDigits v) = v.toInt.natAbs ∧
      decimalDigits v ≠ [] ∧ ((decimalDigits v).head? = some 0x30 → decimalDigits v = [0x30])

/-- R151 to R157: ENCODEDECIMAL gives exactly `length` slots, each the glyph of its character. -/
def Obligations.EncodeDecimalSlots : Prop :=
  ∀ value leadingZero length,
    decodeRecord (0x18 :: putI32 value ++ [putBool leadingZero, length]) = .ok (.encodeDecimal value leadingZero length) ∧
    StopsOnFault (.encodeDecimal value leadingZero length) ∧
    ∀ s, s.fault = none → ∃ buffer,
      exec (.encodeDecimal value leadingZero length) s =
          .next { s with replies := s.replies ++ [.ok (.bytes buffer)] } ∧
        buffer.length = length.toNat ∧
        ∀ k, k < length.toNat → buffer[k]? = (decimalSlot value leadingZero length.toNat k).bind (glyph s.cfg)

/-- R158, R159, R164: ENCODEDECIMALWITHDOT is ENCODEDECIMAL with bit 7 set in each selected slot and no other change. -/
def Obligations.EncodeDecimalWithDotSlots : Prop :=
  ∀ value mask leadingZero length,
    decodeRecord (0x19 :: putI32 value ++ [mask, putBool leadingZero, length]) =
      .ok (.encodeDecimalWithDot value mask leadingZero length) ∧
    StopsOnFault (.encodeDecimalWithDot value mask leadingZero length) ∧
    ∀ s, s.fault = none → ∃ plain buffer,
      exec (.encodeDecimal value leadingZero length) s = .next { s with replies := s.replies ++ [.ok (.bytes plain)] } ∧
        exec (.encodeDecimalWithDot value mask leadingZero length) s =
          .next { s with replies := s.replies ++ [.ok (.bytes buffer)] } ∧
        buffer.length = plain.length ∧ ∀ k, buffer[k]? = (plain[k]?).map (dotted mask k)

/-- R160 to R162: ENCODESTRING gives exactly `length` slots, the glyph of each character before the text's end and a
blank after it, with dots, and the position unchanged. -/
def Obligations.EncodeStringSlots : Prop :=
  ∀ text mask length position,
    (text.length ≤ 255 → decodeRecord (0x1A :: putBytes text ++ [mask, length, position]) =
      .ok (.encodeString text mask length position)) ∧
    StopsOnFault (.encodeString text mask length position) ∧
    ∀ s, s.fault = none → ∃ buffer,
      exec (.encodeString text mask length position) s =
          .next { s with replies := s.replies ++ [.ok (.placed buffer position)] } ∧
        buffer.length = length.toNat ∧
        ∀ k, k < length.toNat → buffer[k]? = (match textSlot text k with
          | some ch => glyph s.cfg ch
          | none => some 0x00).map (dotted mask k)

/-- R163, and R151 and R158 for the decimal formatters: the result of each formatter depends on nothing but the arguments
and GLYPH, and that of ENCODESTRING of "OPEN" is its four glyphs. -/
def Obligations.FormatterDependsOnlyOnGlyph : Prop :=
  (∀ s t : State, s.fault = none → t.fault = none → s.cfg.glyph = t.cfg.glyph →
    (∀ text mask length position, ∃ r,
      exec (.encodeString text mask length position) s = .next { s with replies := s.replies ++ [r] } ∧
        exec (.encodeString text mask length position) t = .next { t with replies := t.replies ++ [r] }) ∧
    (∀ value leadingZero length, ∃ r,
      exec (.encodeDecimal value leadingZero length) s = .next { s with replies := s.replies ++ [r] } ∧
        exec (.encodeDecimal value leadingZero length) t = .next { t with replies := t.replies ++ [r] }) ∧
    (∀ value mask leadingZero length, ∃ r,
      exec (.encodeDecimalWithDot value mask leadingZero length) s = .next { s with replies := s.replies ++ [r] } ∧
        exec (.encodeDecimalWithDot value mask leadingZero length) t = .next { t with replies := t.replies ++ [r] })) ∧
    (∀ s, s.fault = none → exec (.encodeString [0x4F, 0x50, 0x45, 0x4E] 0 4 0) s =
      .next { s with replies := s.replies ++
        [.ok (.placed [s.cfg.glyph[47], s.cfg.glyph[48], s.cfg.glyph[37], s.cfg.glyph[46]] 0)] })

/-! ### 44_controller.md -/

/-- R170: DISPLAYBEGIN. The order CLK then DIO is the spec's choice (R170), and the two actions follow R170 and not R171 (log
entry 21). -/
def Obligations.DisplayBeginOpensTheBus : Prop :=
  decodeRecord [0x20] = .ok .displayBegin ∧ StopsOnFault .displayBegin ∧ ∀ s, s.fault = none →
    (¬InTransaction s → ∃ t, exec .displayBegin s = .next t ∧ t = { s with
      phase := .idle, clk := ⟨.output, .high⟩, dio := ⟨.output, .high⟩,
      trace := s.trace ++ [.clkSet .high, .dioSet .high], replies := s.replies ++ [.ok .none] }) ∧
    (InTransaction s → Raises .displayBegin s .framing)

/-- R172: DISPLAYCLOSE. The order DIO then CLK is the spec's choice (R172). -/
def Obligations.DisplayCloseReleasesTheBus : Prop :=
  decodeRecord [0x21] = .ok .displayClose ∧ StopsOnFault .displayClose ∧ ∀ s, s.fault = none →
    (¬InTransaction s → ∃ t, exec .displayClose s = .next t ∧ t = { s with
      phase := .closed, clk := { s.clk with dir := .input }, dio := { s.dio with dir := .input },
      trace := s.trace ++ [.dioRelease, .clkRelease], replies := s.replies ++ [.ok .none] }) ∧
    (InTransaction s → Raises .displayClose s .framing)

/-- R171: DISPLAYBEGIN is the only way out of UNINIT and CLOSED. -/
def Obligations.OnlyDisplayBeginOpens : Prop :=
  ∀ i s t, exec i s = .next t → NotOpen s → i ≠ .displayBegin → NotOpen t

/-- R173, R176: SETSEGMENTS sends the data command in one transaction and the address command and the first `length`
bytes, exactly as given, in a second, and answers every acknowledgement. -/
def Obligations.SetSegmentsSendsTheBytes : Prop :=
  ∀ buffer length position,
    (buffer.length ≤ 255 → decodeRecord (0x24 :: putBytes buffer ++ [length, position]) =
      .ok (.setSegments buffer length position)) ∧
    StopsOnFault (.setSegments buffer length position) ∧
    ∀ s, s.fault = none →
      (s.phase = .idle → position.toNat < s.cfg.digits → length.toNat ≤ s.cfg.digits - position.toNat →
        length.toNat ≤ buffer.length →
        ∃ t sent, exec (.setSegments buffer length position) s = .next t ∧
          sent = s.sentFrom 1 ((s.cfg.cmdAddrBase ||| position) :: buffer.take length.toNat) ∧
          t = { s with
            clk := ⟨.output, .high⟩, dio := ⟨.output, .high⟩,
            lastAck := some (decide (s.sampleAt (length.toNat + 1) = .low)),
            trace := s.trace ++ frameActions s.cfg.bitDelayUs [(s.cfg.cmdData, s.sampleAt 0)] ++
              frameActions s.cfg.bitDelayUs sent,
            rx := t.rx, samples := s.samples.drop (length.toNat + 2), draws := s.draws + (length.toNat + 2),
            replies := s.replies ++ [.ok (.acks ((List.range (length.toNat + 2)).map fun k =>
              decide (s.sampleAt k = .low)))] }) ∧
      (s.phase = .idle →
        (s.cfg.digits ≤ position.toNat ∨ s.cfg.digits - position.toNat < length.toNat ∨ buffer.length < length.toNat) →
        exec (.setSegments buffer length position) s = .next { s with replies := s.replies ++ [.errRange] }) ∧
      (NotOpen s → Raises (.setSegments buffer length position) s .notOpen) ∧
      (InTransaction s → Raises (.setSegments buffer length position) s .framing)

/-- R174: a call outside the display, or with too short a buffer, is rejected with ERR_RANGE before any action. -/
def Obligations.OutOfRangeIsRejected : Prop :=
  ∀ i s n len pos, rangeOf i = some (n, len, pos) → s.fault = none → s.phase = .idle →
    (s.cfg.digits ≤ pos ∨ s.cfg.digits - pos < len ∨ n < len) →
    exec i s = .next { s with replies := s.replies ++ [.errRange] }

/-- R177: DISPLAYCLEAR sends a blank to each of the DIGITS positions. -/
def Obligations.DisplayClearBlanksEveryDigit : Prop :=
  decodeRecord [0x22] = .ok .displayClear ∧ StopsOnFault .displayClear ∧ ∀ s, s.fault = none →
    (s.phase = .idle → 1 ≤ s.cfg.digits → ∃ t, exec .displayClear s = .next t ∧ t = { s with
      clk := ⟨.output, .high⟩, dio := ⟨.output, .high⟩,
      lastAck := some (decide (s.sampleAt (s.cfg.digits + 1) = .low)),
      trace := s.trace ++ frameActions s.cfg.bitDelayUs [(s.cfg.cmdData, s.sampleAt 0)] ++
        frameActions s.cfg.bitDelayUs (s.sentFrom 1 (s.cfg.cmdAddrBase :: List.replicate s.cfg.digits 0x00)),
      rx := t.rx, samples := s.samples.drop (s.cfg.digits + 2), draws := s.draws + (s.cfg.digits + 2),
      replies := s.replies ++ [.ok (.acks ((List.range (s.cfg.digits + 2)).map fun k =>
        decide (s.sampleAt k = .low)))] }) ∧
    (NotOpen s → Raises .displayClear s .notOpen) ∧ (InTransaction s → Raises .displayClear s .framing)

/-- R178: SETBRIGHTNESS stores the brightness and sends it at once as its own transaction. -/
def Obligations.SetBrightnessStoresAndSends : Prop :=
  (∀ level on, decodeRecord [0x23, level, if on then 0x01 else 0x00] = .ok (.setBrightness level on) ∧
    StopsOnFault (.setBrightness level on)) ∧ ∀ s level on, s.fault = none →
    (s.phase = .idle → ∃ t, exec (.setBrightness level on) s = .next t ∧ t = { s with
      bright := some ⟨level.extractLsb' 0 3, on⟩, clk := ⟨.output, .high⟩, dio := ⟨.output, .high⟩,
      lastAck := some (decide (s.sampleAt 0 = .low)),
      trace := s.trace ++ frameActions s.cfg.bitDelayUs
        [(s.cfg.cmdDispBase ||| (if on then s.cfg.dispOnBit else 0) ||| (level &&& 0x07), s.sampleAt 0)],
      rx := t.rx, samples := s.samples.drop 1, draws := s.draws + 1,
      replies := s.replies ++ [.ok (.acks [decide (s.sampleAt 0 = .low)])] }) ∧
    (NotOpen s → Raises (.setBrightness level on) s .notOpen) ∧
    (InTransaction s → Raises (.setBrightness level on) s .framing)

/-- R179 to R181: in phase IDLE each formatting operation is exactly SETSEGMENTS of the formatter's result, and inside the
display it completes with acknowledgements; outside phase IDLE it raises the faults of SETSEGMENTS. -/
def Obligations.FormattingOperationsCompose : Prop :=
  (∀ i s, (∃ v lz len pos, i = .displayDecimal v lz len pos) ∨ (∃ v m lz len pos, i = .displayDecimalWDot v m lz len pos) ∨
      (∃ t m len pos, i = .displayString t m len pos) → StopsOnFault i ∧ (s.fault = none →
        (NotOpen s → Raises i s .notOpen) ∧ (InTransaction s → Raises i s .framing))) ∧
  ∀ s length position, s.fault = none → s.phase = .idle →
    (∀ value leadingZero, ∃ buffer t,
      decodeRecord (0x28 :: putI32 value ++ [putBool leadingZero, length, position]) =
          .ok (.displayDecimal value leadingZero length position) ∧
      exec (.encodeDecimal value leadingZero length) s = .next { s with replies := s.replies ++ [.ok (.bytes buffer)] } ∧
        buffer.length = length.toNat ∧
        exec (.displayDecimal value leadingZero length position) s = .next t ∧
        exec (.setSegments buffer length position) s = .next t ∧
        (position.toNat < s.cfg.digits → length.toNat ≤ s.cfg.digits - position.toNat →
          ∃ acks, lastReply t = some (.ok (.acks acks)))) ∧
    (∀ value mask leadingZero, ∃ buffer t,
      decodeRecord (0x29 :: putI32 value ++ [mask, putBool leadingZero, length, position]) =
          .ok (.displayDecimalWDot value mask leadingZero length position) ∧
      exec (.encodeDecimalWithDot value mask leadingZero length) s =
          .next { s with replies := s.replies ++ [.ok (.bytes buffer)] } ∧
        buffer.length = length.toNat ∧
        exec (.displayDecimalWDot value mask leadingZero length position) s = .next t ∧
        exec (.setSegments buffer length position) s = .next t ∧
        (position.toNat < s.cfg.digits → length.toNat ≤ s.cfg.digits - position.toNat →
          ∃ acks, lastReply t = some (.ok (.acks acks)))) ∧
    (∀ text mask, ∃ buffer t,
      (text.length ≤ 255 → decodeRecord (0x2A :: putBytes text ++ [mask, length, position]) =
          .ok (.displayString text mask length position)) ∧
      exec (.encodeString text mask length position) s =
          .next { s with replies := s.replies ++ [.ok (.placed buffer position)] } ∧
        buffer.length = length.toNat ∧
        exec (.displayString text mask length position) s = .next t ∧
        exec (.setSegments buffer length position) s = .next t ∧
        (position.toNat < s.cfg.digits → length.toNat ≤ s.cfg.digits - position.toNat →
          ∃ acks, lastReply t = some (.ok (.acks acks))))

/-- R118, R173: an acknowledged SETSEGMENTS leaves its bytes on its positions of the receiver's display and every other
position, the brightness and the on flag of the receiver as they were. -/
def Obligations.SetSegmentsShowsTheBytes : Prop :=
  ∀ s buffer length position, s.fault = none → s.phase = .idle → s.cfg.Legal → s.cfg.familiesDistinct = true →
    s.cfg.slowEnough = true →
    position.toNat < s.cfg.digits → length.toNat ≤ s.cfg.digits - position.toNat → length.toNat ≤ buffer.length →
    (∀ k, k < length.toNat + 2 → s.sampleAt k = .low) →
    ∃ t, exec (.setSegments buffer length position) s = .next t ∧
      t.rx.frame = none ∧ t.rx.view = { s.rx.view with mode := some .autoIncrement, disp := t.rx.view.disp } ∧
      ∀ p, t.rx.view.disp.read p =
        if position.toNat ≤ p ∧ p < position.toNat + length.toNat then buffer[p - position.toNat]?
        else s.rx.view.disp.read p

/-- R118, R178: an acknowledged SETBRIGHTNESS sets the receiver's on flag and level and nothing else of its view. -/
def Obligations.SetBrightnessLightsTheReceiver : Prop :=
  ∀ s level on, s.fault = none → s.phase = .idle → s.cfg.Legal → s.cfg.familiesDistinct = true →
    s.cfg.slowEnough = true → s.sampleAt 0 = .low →
    ∃ t, exec (.setBrightness level on) s = .next t ∧ t.rx.frame = none ∧
      t.rx.view = { s.rx.view with on := some on, level := some (level.extractLsb' 0 3) }

/-- The frame of the display memory (R52, R118), whatever is acknowledged: a frame touches no position outside its own,
SETBRIGHTNESS and a command alone touch none, and a call rejected or faulted touches none. The formatting operations do
as SETSEGMENTS (`FormattingOperationsCompose`); that the positions are left alone whatever the write mode is log entry 9,
and that a frame takes its effect at its stop is log entry 7. -/
def Obligations.FramesTouchOnlyTheirPositions : Prop :=
  ∀ s t, s.cfg.Legal → s.cfg.familiesDistinct = true → s.cfg.slowEnough = true →
    (∀ buffer length position, exec (.setSegments buffer length position) s = .next t →
      ∀ p, p < position.toNat ∨ position.toNat + length.toNat ≤ p → t.rx.view.disp.read p = s.rx.view.disp.read p) ∧
    (∀ level on, exec (.setBrightness level on) s = .next t → t.rx.view.disp = s.rx.view.disp) ∧
    (exec .stop s = .next t →
      (∀ (pos : BitVec 3) ack payload, s.rx.frame = some ((s.cfg.cmdAddrBase ||| pos.setWidth 8, ack) :: payload) →
        pos.toNat < s.cfg.digits → pos.toNat + payload.length ≤ s.cfg.digits → ∀ p, p < pos.toNat ∨ pos.toNat + payload.length ≤ p →
          t.rx.view.disp.read p = s.rx.view.disp.read p) ∧
      (∀ b ack, s.rx.frame = some [(b, ack)] →
        (b = s.cfg.cmdData ∨ ∃ (on : Bool) (level : BitVec 3),
          b = s.cfg.cmdDispBase ||| (if on then s.cfg.dispOnBit else 0) ||| level.setWidth 8) →
        t.rx.view.disp = s.rx.view.disp))

/-- 20_memory.md R52, 40_protocol.md R118: an instruction that completes no frame leaves every position of the
receiver's display, and the rest of its view, as it was. Only STOP and the transmitting operations complete a frame. -/
def Obligations.ReceiverViewChangesOnlyAtFrameEnds : Prop :=
  ∀ i s t, exec i s = .next t → transmits i = false → i ≠ .stop → t.rx.view = s.rx.view

/-- R185: whatever the acknowledgements, an instruction completes as it did, with the same actions but for the sampled
levels; only the last acknowledgement, the result and what the receiver holds can differ. -/
def Obligations.AcksNeverChangeControlFlow : Prop :=
  ∀ i s levels t, exec i s = .next t → ∃ u, exec i { s with samples := levels } = .next u ∧
    u.trace.map unsampled = t.trace.map unsampled ∧
    u = { t with lastAck := u.lastAck, trace := u.trace, rx := u.rx, replies := u.replies, samples := u.samples }

/-! ### Wire bytes (30_encoding.md section 2) -/

/-- R76 to R80: in an open frame each kind of wire byte goes over the wire as WRITEBYTE sends its byte. That the block
sends one so is the model's choice (log entry 6), and so is that a position at or past DIGITS is one (log entry 23). -/
def Obligations.WireByteKindsAreSent : Prop :=
  ∀ s, s.fault = none → InTransaction s →
    (∃ t, exec .wireCmdData s = .next t ∧ exec (.writeByte s.cfg.cmdData) s = .next t) ∧
    (∀ pos : BitVec 3, ∃ t, exec (.wireCmdAddr pos) s = .next t ∧
      exec (.writeByte (s.cfg.cmdAddrBase ||| pos.setWidth 8)) s = .next t) ∧
    (∀ (on : Bool) (level : BitVec 3), ∃ t, exec (.wireCmdDisp on level) s = .next t ∧
      exec (.writeByte (s.cfg.cmdDispBase ||| (if on then s.cfg.dispOnBit else 0) ||| level.setWidth 8)) s = .next t) ∧
    (∀ v : Byte, ∃ t,
      exec (.wireSegment (v.getLsbD 7) (v.getLsbD 6) (v.getLsbD 5) (v.getLsbD 4) (v.getLsbD 3) (v.getLsbD 2)
        (v.getLsbD 1) (v.getLsbD 0)) s = .next t ∧ exec (.writeByte v) s = .next t)

/-- R81, R82: a wire byte outside a frame raises what WRITEBYTE raises there, and where the next byte has no meaning the
decoder gives no instruction and the step refuses, also where it is a frame's first byte and belongs to none of the three
families. Both are the model's choice (log entries 6 and 15), and so is that the address command of a position at or past
DIGITS is no such byte (log entry 23). -/
def Obligations.WireByteOutsideItsPlace : Prop :=
  (∀ i s, i.isOperation = false → s.fault = none →
      (NotOpen s → Raises i s .notOpen) ∧ (s.phase = .idle → Raises i s .framing)) ∧
    (∀ s b rest, s.fault = none → s.requests = .wire b :: rest → s.rx.frame = some [] → s.cfg.Legal →
      NoCommand s.cfg b → step s = .refused (.wire (.notACommand b))) ∧
    ∀ s b rest, s.fault = none → s.requests = .wire b :: rest →
      (s.rx.frame = none ∨ (∃ first ack more, s.rx.frame = some ((first, ack) :: more) ∧
        ∀ pos : BitVec 3, first ≠ s.cfg.cmdAddrBase ||| pos.setWidth 8)) →
      ∃ e, step s = .refused (.wire e)

/-! ### 60_exceptions.md -/

/-- R202: NOT_OPEN. -/
def Obligations.NotOpenUntilDisplayBegin : Prop :=
  ∀ i s, needsOpenLines i = true → s.fault = none → NotOpen s → Raises i s .notOpen

/-- R203: FRAMING is raised exactly where an operation would break the transaction state machine, and only direct calls
of the primitives can lead there. What a wire byte kind raises is `WireByteOutsideItsPlace` (log entry 6 counts the kinds
with the primitives). -/
def Obligations.FramingOutsideTheStateMachine : Prop :=
  (∀ i s, s.fault = none → BreaksFraming i s → Raises i s .framing) ∧
    (∀ i s t r, i.isOperation = true → exec i s = .next t → t.fault = some r → r.code = .framing → BreaksFraming i s) ∧
    (∀ i s t, isPrimitive i = false → ¬InTransaction s → exec i s = .next t →
      ¬InTransaction t ∧ ∀ r, t.fault = some r → r.code = .notOpen)

/-- R201: the fault records the operation id. Which id a composite or a wire byte kind records is the model's reading (log
entries 5 and 6). -/
def Obligations.FaultRecordNamesTheOperation : Prop :=
  ∀ i s t r, exec i s = .next t → t.fault = some r → r.op = recordedId i

/-- R206: a fault ends its operation before any action, and from then on the block takes no step. -/
def Obligations.FaultStopsTheBlock : Prop :=
  (∀ i s t r, exec i s = .next t → t.fault = some r →
      t = { s with fault := some r, replies := s.replies ++ [.fault r.code] }) ∧
    (∀ i, StopsOnFault i) ∧ (∀ s r, s.fault = some r → step s = .fault (.stopped r))

/-- R207: a recorded fault first, then NOT_OPEN, then FRAMING, then ERR_RANGE, and only then acknowledgements; an operation
reports exactly one outcome. -/
def Obligations.EarlierConditionWins : Prop :=
  (∀ i, StopsOnFault i) ∧
    (∀ i s, needsOpenLines i = true → s.fault = none → NotOpen s → Raises i s .notOpen) ∧
    (∀ i s n len pos, rangeOf i = some (n, len, pos) → s.fault = none → ∃ t, exec i s = .next t ∧
      if s.phase = .uninit ∨ s.phase = .closed then lastReply t = some (.fault .notOpen)
      else if s.phase ≠ .idle then lastReply t = some (.fault .framing)
      else if s.cfg.digits ≤ pos ∨ s.cfg.digits - pos < len ∨ n < len then lastReply t = some .errRange
      else ∃ acks, lastReply t = some (.ok (.acks acks))) ∧
    (∀ i s t, exec i s = .next t → ∃ r, t.replies = s.replies ++ [r])

/-- R183, R211: every instruction that ends in a next state hands the host exactly one outcome and takes nothing from
what the host will issue. The two lists are the model's (log entries 1 and 3). -/
def Obligations.EveryOperationAnswersOnce : Prop :=
  ∀ i s t, exec i s = .next t → t.requests = s.requests ∧
    ∃ r, t.replies = s.replies ++ [r] ∧ ∀ code, (r = .fault code ↔ ∃ f, t.fault = some f ∧ f.code = code)

/-- R209: construction of an illegal configuration gives no block. -/
def Obligations.IllegalConfigurationsRefused : Prop := ∀ c, illegal c → construct c = none

/-- 44_controller.md R183: a legal configuration whose GLYPH holds the fixed entries gives a block in reset state. What
makes a configuration legal beyond R209 is the model's reading (log entry 13). -/
def Obligations.LegalConfigurationsGiveResetState : Prop :=
  ∀ c, ¬illegal c → c.glyphLegal = true → construct c = some (State.ofConfig c)

/-! ### 70_reset_and_hazards.md -/

/-- R119, R242, R243: the actions and delays an operation appends, and the time that passes at least. -/
def Obligations.ActionAndDelayCounts : Prop :=
  ∀ i s t, exec i s = .next t → t.fault = none → lastReply t ≠ some .errRange →
    t.trace.length = s.trace.length + actionCount s.cfg i ∧
      delayCount t.trace = delayCount s.trace + delaysOf s.cfg i ∧
      leastMicroseconds t.trace = leastMicroseconds s.trace + delaysOf s.cfg i * s.cfg.bitDelayUs

/-- R244: every operation ends after at most 440 actions on a legal display. -/
def Obligations.EveryOperationIsBounded : Prop :=
  ∀ i s t, s.cfg.digits ≤ 6 → exec i s = .next t → t.trace.length ≤ s.trace.length + 440

/-! ### Invariants of the whole machine -/

/-- R28, R115 to R118: the state after construction is consistent. -/
def Obligations.ResetIsConsistent : Prop := State.reset.Consistent ∧ ∀ c, (State.ofConfig c).Consistent

/-- R28: the lines follow the phase at every operation boundary. -/
def Obligations.StepKeepsLinesFollowingPhase : Prop :=
  ∀ s t, s.LinesFollowPhase → step s = .next t → t.LinesFollowPhase

/-- R28, R115 to R118: every step keeps the whole invariant: replaying the trace gives the lines, and the receiver that
the operations keep is the one that the symbols and frames of the wire trace give, with no symbol left over, where
70_reset_and_hazards.md R235 claims R116 to R118. That this state is
stored at all is log entry 7, and how the wire trace is read at an acknowledgement is log entry 22. -/
def Obligations.StepKeepsConsistent : Prop :=
  ∀ s t, s.Consistent → step s = .next t → t.Consistent

/-- R117, R173: on the wire, SETSEGMENTS is exactly two more frames, whose bytes the receiver reads back,
where 70_reset_and_hazards.md R235 claims R117. -/
def Obligations.SetSegmentsFramesOnTheWire : Prop :=
  ∀ s buffer length position, s.Consistent → s.fault = none → s.phase = .idle →
    position.toNat < s.cfg.digits → length.toNat ≤ s.cfg.digits - position.toNat → length.toNat ≤ buffer.length →
    ∃ t, exec (.setSegments buffer length position) s = .next t ∧
      ∀ before, framesOfTrace s.cfg s.trace = some before →
        framesOfTrace t.cfg t.trace = some (before ++
          [[(s.cfg.cmdData, decide (s.sampleAt 0 = .low))],
           acked (s.sentFrom 1 ((s.cfg.cmdAddrBase ||| position) :: buffer.take length.toNat))])
end

