-- ==== Sys2Proof/Laws/State.lean ====
section
/-! SUPPORT. One lemma per field of State per named update, so that no proof unfolds a record update. -/

namespace Sys2Proof.Machine

/-! ### act -/

@[simp] theorem State.act_cfg (a : Action) (s : State) : (s.act a).cfg = s.cfg := rfl
@[simp] theorem State.act_bright (a : Action) (s : State) : (s.act a).bright = s.bright := rfl
@[simp] theorem State.act_phase (a : Action) (s : State) : (s.act a).phase = s.phase := rfl
@[simp] theorem State.act_clk (a : Action) (s : State) : (s.act a).clk = s.clk := rfl
@[simp] theorem State.act_dio (a : Action) (s : State) : (s.act a).dio = s.dio := rfl
@[simp] theorem State.act_lastAck (a : Action) (s : State) : (s.act a).lastAck = s.lastAck := rfl
@[simp] theorem State.act_fault (a : Action) (s : State) : (s.act a).fault = s.fault := rfl
@[simp] theorem State.act_trace (a : Action) (s : State) : (s.act a).trace = s.trace ++ [a] := rfl
@[simp] theorem State.act_rx (a : Action) (s : State) : (s.act a).rx = s.rx := rfl
@[simp] theorem State.act_replies (a : Action) (s : State) : (s.act a).replies = s.replies := rfl
@[simp] theorem State.act_requests (a : Action) (s : State) : (s.act a).requests = s.requests := rfl
@[simp] theorem State.act_samples (a : Action) (s : State) : (s.act a).samples = s.samples := rfl
@[simp] theorem State.act_draws (a : Action) (s : State) : (s.act a).draws = s.draws := rfl

/-! ### setClk -/

@[simp] theorem State.setClk_cfg (v : Level) (s : State) : (s.setClk v).cfg = s.cfg := rfl
@[simp] theorem State.setClk_bright (v : Level) (s : State) : (s.setClk v).bright = s.bright := rfl
@[simp] theorem State.setClk_phase (v : Level) (s : State) : (s.setClk v).phase = s.phase := rfl
@[simp] theorem State.setClk_clk (v : Level) (s : State) : (s.setClk v).clk = ⟨.output, v⟩ := rfl
@[simp] theorem State.setClk_dio (v : Level) (s : State) : (s.setClk v).dio = s.dio := rfl
@[simp] theorem State.setClk_lastAck (v : Level) (s : State) : (s.setClk v).lastAck = s.lastAck := rfl
@[simp] theorem State.setClk_fault (v : Level) (s : State) : (s.setClk v).fault = s.fault := rfl
@[simp] theorem State.setClk_trace (v : Level) (s : State) : (s.setClk v).trace = s.trace ++ [.clkSet v] := rfl
@[simp] theorem State.setClk_rx (v : Level) (s : State) : (s.setClk v).rx = s.rx := rfl
@[simp] theorem State.setClk_replies (v : Level) (s : State) : (s.setClk v).replies = s.replies := rfl
@[simp] theorem State.setClk_requests (v : Level) (s : State) : (s.setClk v).requests = s.requests := rfl
@[simp] theorem State.setClk_samples (v : Level) (s : State) : (s.setClk v).samples = s.samples := rfl
@[simp] theorem State.setClk_draws (v : Level) (s : State) : (s.setClk v).draws = s.draws := rfl

/-! ### setDio -/

@[simp] theorem State.setDio_cfg (v : Level) (s : State) : (s.setDio v).cfg = s.cfg := rfl
@[simp] theorem State.setDio_bright (v : Level) (s : State) : (s.setDio v).bright = s.bright := rfl
@[simp] theorem State.setDio_phase (v : Level) (s : State) : (s.setDio v).phase = s.phase := rfl
@[simp] theorem State.setDio_clk (v : Level) (s : State) : (s.setDio v).clk = s.clk := rfl
@[simp] theorem State.setDio_dio (v : Level) (s : State) : (s.setDio v).dio = ⟨.output, v⟩ := rfl
@[simp] theorem State.setDio_lastAck (v : Level) (s : State) : (s.setDio v).lastAck = s.lastAck := rfl
@[simp] theorem State.setDio_fault (v : Level) (s : State) : (s.setDio v).fault = s.fault := rfl
@[simp] theorem State.setDio_trace (v : Level) (s : State) : (s.setDio v).trace = s.trace ++ [.dioSet v] := rfl
@[simp] theorem State.setDio_rx (v : Level) (s : State) : (s.setDio v).rx = s.rx := rfl
@[simp] theorem State.setDio_replies (v : Level) (s : State) : (s.setDio v).replies = s.replies := rfl
@[simp] theorem State.setDio_requests (v : Level) (s : State) : (s.setDio v).requests = s.requests := rfl
@[simp] theorem State.setDio_samples (v : Level) (s : State) : (s.setDio v).samples = s.samples := rfl
@[simp] theorem State.setDio_draws (v : Level) (s : State) : (s.setDio v).draws = s.draws := rfl

/-! ### releaseDio -/

@[simp] theorem State.releaseDio_cfg (s : State) : s.releaseDio.cfg = s.cfg := rfl
@[simp] theorem State.releaseDio_bright (s : State) : s.releaseDio.bright = s.bright := rfl
@[simp] theorem State.releaseDio_phase (s : State) : s.releaseDio.phase = s.phase := rfl
@[simp] theorem State.releaseDio_clk (s : State) : s.releaseDio.clk = s.clk := rfl
@[simp] theorem State.releaseDio_dio (s : State) : s.releaseDio.dio = { s.dio with dir := .input } := rfl
@[simp] theorem State.releaseDio_lastAck (s : State) : s.releaseDio.lastAck = s.lastAck := rfl
@[simp] theorem State.releaseDio_fault (s : State) : s.releaseDio.fault = s.fault := rfl
@[simp] theorem State.releaseDio_trace (s : State) : s.releaseDio.trace = s.trace ++ [.dioRelease] := rfl
@[simp] theorem State.releaseDio_rx (s : State) : s.releaseDio.rx = s.rx := rfl
@[simp] theorem State.releaseDio_replies (s : State) : s.releaseDio.replies = s.replies := rfl
@[simp] theorem State.releaseDio_requests (s : State) : s.releaseDio.requests = s.requests := rfl
@[simp] theorem State.releaseDio_samples (s : State) : s.releaseDio.samples = s.samples := rfl
@[simp] theorem State.releaseDio_draws (s : State) : s.releaseDio.draws = s.draws := rfl

/-! ### releaseClk -/

@[simp] theorem State.releaseClk_cfg (s : State) : s.releaseClk.cfg = s.cfg := rfl
@[simp] theorem State.releaseClk_bright (s : State) : s.releaseClk.bright = s.bright := rfl
@[simp] theorem State.releaseClk_phase (s : State) : s.releaseClk.phase = s.phase := rfl
@[simp] theorem State.releaseClk_clk (s : State) : s.releaseClk.clk = { s.clk with dir := .input } := rfl
@[simp] theorem State.releaseClk_dio (s : State) : s.releaseClk.dio = s.dio := rfl
@[simp] theorem State.releaseClk_lastAck (s : State) : s.releaseClk.lastAck = s.lastAck := rfl
@[simp] theorem State.releaseClk_fault (s : State) : s.releaseClk.fault = s.fault := rfl
@[simp] theorem State.releaseClk_trace (s : State) : s.releaseClk.trace = s.trace ++ [.clkRelease] := rfl
@[simp] theorem State.releaseClk_rx (s : State) : s.releaseClk.rx = s.rx := rfl
@[simp] theorem State.releaseClk_replies (s : State) : s.releaseClk.replies = s.replies := rfl
@[simp] theorem State.releaseClk_requests (s : State) : s.releaseClk.requests = s.requests := rfl
@[simp] theorem State.releaseClk_samples (s : State) : s.releaseClk.samples = s.samples := rfl
@[simp] theorem State.releaseClk_draws (s : State) : s.releaseClk.draws = s.draws := rfl

/-! ### delay -/

@[simp] theorem State.delay_cfg (s : State) : s.delay.cfg = s.cfg := rfl
@[simp] theorem State.delay_bright (s : State) : s.delay.bright = s.bright := rfl
@[simp] theorem State.delay_phase (s : State) : s.delay.phase = s.phase := rfl
@[simp] theorem State.delay_clk (s : State) : s.delay.clk = s.clk := rfl
@[simp] theorem State.delay_dio (s : State) : s.delay.dio = s.dio := rfl
@[simp] theorem State.delay_lastAck (s : State) : s.delay.lastAck = s.lastAck := rfl
@[simp] theorem State.delay_fault (s : State) : s.delay.fault = s.fault := rfl
@[simp] theorem State.delay_trace (s : State) : s.delay.trace = s.trace ++ [.delay s.cfg.bitDelayUs] := rfl
@[simp] theorem State.delay_rx (s : State) : s.delay.rx = s.rx := rfl
@[simp] theorem State.delay_replies (s : State) : s.delay.replies = s.replies := rfl
@[simp] theorem State.delay_requests (s : State) : s.delay.requests = s.requests := rfl
@[simp] theorem State.delay_samples (s : State) : s.delay.samples = s.samples := rfl
@[simp] theorem State.delay_draws (s : State) : s.delay.draws = s.draws := rfl

/-! ### sampleDio -/

@[simp] theorem State.sampleDio_cfg (s : State) : s.sampleDio.cfg = s.cfg := rfl
@[simp] theorem State.sampleDio_bright (s : State) : s.sampleDio.bright = s.bright := rfl
@[simp] theorem State.sampleDio_phase (s : State) : s.sampleDio.phase = s.phase := rfl
@[simp] theorem State.sampleDio_clk (s : State) : s.sampleDio.clk = s.clk := rfl
@[simp] theorem State.sampleDio_dio (s : State) : s.sampleDio.dio = s.dio := rfl
@[simp] theorem State.sampleDio_lastAck (s : State) : s.sampleDio.lastAck = s.lastAck := rfl
@[simp] theorem State.sampleDio_fault (s : State) : s.sampleDio.fault = s.fault := rfl
@[simp] theorem State.sampleDio_trace (s : State) : s.sampleDio.trace = s.trace ++ [.dioSample s.nextSample] := rfl
@[simp] theorem State.sampleDio_rx (s : State) : s.sampleDio.rx = s.rx := rfl
@[simp] theorem State.sampleDio_replies (s : State) : s.sampleDio.replies = s.replies := rfl
@[simp] theorem State.sampleDio_requests (s : State) : s.sampleDio.requests = s.requests := rfl
@[simp] theorem State.sampleDio_samples (s : State) : s.sampleDio.samples = s.samples.tail := rfl
@[simp] theorem State.sampleDio_draws (s : State) : s.sampleDio.draws = s.draws + 1 := rfl

/-! ### reply -/

@[simp] theorem State.reply_cfg (r : Reply) (s : State) : (s.reply r).cfg = s.cfg := rfl
@[simp] theorem State.reply_bright (r : Reply) (s : State) : (s.reply r).bright = s.bright := rfl
@[simp] theorem State.reply_phase (r : Reply) (s : State) : (s.reply r).phase = s.phase := rfl
@[simp] theorem State.reply_clk (r : Reply) (s : State) : (s.reply r).clk = s.clk := rfl
@[simp] theorem State.reply_dio (r : Reply) (s : State) : (s.reply r).dio = s.dio := rfl
@[simp] theorem State.reply_lastAck (r : Reply) (s : State) : (s.reply r).lastAck = s.lastAck := rfl
@[simp] theorem State.reply_fault (r : Reply) (s : State) : (s.reply r).fault = s.fault := rfl
@[simp] theorem State.reply_trace (r : Reply) (s : State) : (s.reply r).trace = s.trace := rfl
@[simp] theorem State.reply_rx (r : Reply) (s : State) : (s.reply r).rx = s.rx := rfl
@[simp] theorem State.reply_replies (r : Reply) (s : State) : (s.reply r).replies = s.replies ++ [r] := rfl
@[simp] theorem State.reply_requests (r : Reply) (s : State) : (s.reply r).requests = s.requests := rfl
@[simp] theorem State.reply_samples (r : Reply) (s : State) : (s.reply r).samples = s.samples := rfl
@[simp] theorem State.reply_draws (r : Reply) (s : State) : (s.reply r).draws = s.draws := rfl

/-! ### raise -/

@[simp] theorem State.raise_cfg (code : FaultCode) (op : Byte) (s : State) : (s.raise code op).cfg = s.cfg := rfl
@[simp] theorem State.raise_bright (code : FaultCode) (op : Byte) (s : State) : (s.raise code op).bright = s.bright := rfl
@[simp] theorem State.raise_phase (code : FaultCode) (op : Byte) (s : State) : (s.raise code op).phase = s.phase := rfl
@[simp] theorem State.raise_clk (code : FaultCode) (op : Byte) (s : State) : (s.raise code op).clk = s.clk := rfl
@[simp] theorem State.raise_dio (code : FaultCode) (op : Byte) (s : State) : (s.raise code op).dio = s.dio := rfl
@[simp] theorem State.raise_lastAck (code : FaultCode) (op : Byte) (s : State) : (s.raise code op).lastAck = s.lastAck := rfl
@[simp] theorem State.raise_fault (code : FaultCode) (op : Byte) (s : State) : (s.raise code op).fault = some ⟨code, op⟩ := rfl
@[simp] theorem State.raise_trace (code : FaultCode) (op : Byte) (s : State) : (s.raise code op).trace = s.trace := rfl
@[simp] theorem State.raise_rx (code : FaultCode) (op : Byte) (s : State) : (s.raise code op).rx = s.rx := rfl
@[simp] theorem State.raise_replies (code : FaultCode) (op : Byte) (s : State) : (s.raise code op).replies = s.replies ++ [.fault code] := rfl
@[simp] theorem State.raise_requests (code : FaultCode) (op : Byte) (s : State) : (s.raise code op).requests = s.requests := rfl
@[simp] theorem State.raise_samples (code : FaultCode) (op : Byte) (s : State) : (s.raise code op).samples = s.samples := rfl
@[simp] theorem State.raise_draws (code : FaultCode) (op : Byte) (s : State) : (s.raise code op).draws = s.draws := rfl

/-! ### Construction and the host's requests -/

@[simp] theorem State.ofConfig_cfg (c : Config) : (State.ofConfig c).cfg = c := rfl
@[simp] theorem State.ofConfig_bright (c : Config) : (State.ofConfig c).bright = none := rfl
@[simp] theorem State.ofConfig_phase (c : Config) : (State.ofConfig c).phase = .uninit := rfl
@[simp] theorem State.ofConfig_clk (c : Config) : (State.ofConfig c).clk = ⟨.input, .low⟩ := rfl
@[simp] theorem State.ofConfig_dio (c : Config) : (State.ofConfig c).dio = ⟨.input, .low⟩ := rfl
@[simp] theorem State.ofConfig_lastAck (c : Config) : (State.ofConfig c).lastAck = none := rfl
@[simp] theorem State.ofConfig_fault (c : Config) : (State.ofConfig c).fault = none := rfl
@[simp] theorem State.ofConfig_trace (c : Config) : (State.ofConfig c).trace = [] := rfl
@[simp] theorem State.ofConfig_rx (c : Config) : (State.ofConfig c).rx = ⟨none, .unknown⟩ := rfl
@[simp] theorem State.ofConfig_replies (c : Config) : (State.ofConfig c).replies = [] := rfl
@[simp] theorem State.ofConfig_requests (c : Config) : (State.ofConfig c).requests = [] := rfl
@[simp] theorem State.ofConfig_samples (c : Config) : (State.ofConfig c).samples = [] := rfl
@[simp] theorem State.ofConfig_draws (c : Config) : (State.ofConfig c).draws = 0 := rfl
@[simp] theorem State.issue_cfg (r : Request) (s : State) : (s.issue r).cfg = s.cfg := rfl
@[simp] theorem State.issue_bright (r : Request) (s : State) : (s.issue r).bright = s.bright := rfl
@[simp] theorem State.issue_phase (r : Request) (s : State) : (s.issue r).phase = s.phase := rfl
@[simp] theorem State.issue_clk (r : Request) (s : State) : (s.issue r).clk = s.clk := rfl
@[simp] theorem State.issue_dio (r : Request) (s : State) : (s.issue r).dio = s.dio := rfl
@[simp] theorem State.issue_lastAck (r : Request) (s : State) : (s.issue r).lastAck = s.lastAck := rfl
@[simp] theorem State.issue_fault (r : Request) (s : State) : (s.issue r).fault = s.fault := rfl
@[simp] theorem State.issue_trace (r : Request) (s : State) : (s.issue r).trace = s.trace := rfl
@[simp] theorem State.issue_rx (r : Request) (s : State) : (s.issue r).rx = s.rx := rfl
@[simp] theorem State.issue_replies (r : Request) (s : State) : (s.issue r).replies = s.replies := rfl
@[simp] theorem State.issue_requests (r : Request) (s : State) : (s.issue r).requests = r :: s.requests := rfl
@[simp] theorem State.issue_samples (r : Request) (s : State) : (s.issue r).samples = s.samples := rfl
@[simp] theorem State.issue_draws (r : Request) (s : State) : (s.issue r).draws = s.draws := rfl

end Sys2Proof.Machine
end

