-- ==== Sys2Proof/Laws/Ops.lean ====
section
/-! SUPPORT. What each shared operation does, once: the checks, the wire sequences in closed form, and the samples they
take. -/

namespace Sys2Proof.Machine

/-! ### Checks -/

/-- Without a recorded fault an instruction goes on. -/
theorem State.running_of_none {s : State} {go : State → Result} (h : s.fault = none) : s.running go = go s := by
  simp [State.running, h]

/-- With a recorded fault every instruction stops. -/
theorem State.running_of_some {s : State} {go : State → Result} {r : FaultRecord} (h : s.fault = some r) :
    s.running go = .fault (.stopped r) := by
  simp [State.running, h]

/-- An instruction that answers a next state has no fault recorded. -/
theorem State.running_next {s t : State} {go : State → Result} (h : s.running go = .next t) :
    s.fault = none ∧ go s = .next t := by
  unfold State.running at h
  split at h
  · cases h
  · exact ⟨‹_›, h⟩

/-- In an accepted phase the check lets the operation go on. -/
theorem State.check_pass {s : State} {op : Byte} {accepts : Phase → Bool} {go : State → Result} (hf : s.fault = none)
    (hu : s.phase ≠ .uninit) (hc : s.phase ≠ .closed) (ha : accepts s.phase = true) : s.check op accepts go = go s := by
  simp [State.check, State.running, hf, hu, hc, ha]

/-- What a checked operation that answers a next state has done: raised NOT_OPEN, raised FRAMING, or gone on. -/
theorem State.check_next {s t : State} {op : Byte} {accepts : Phase → Bool} {go : State → Result}
    (h : s.check op accepts go = .next t) :
    s.fault = none ∧
      ((s.phase = .uninit ∨ s.phase = .closed) ∧ t = s.raise .notOpen op ∨
        s.phase ≠ .uninit ∧ s.phase ≠ .closed ∧ accepts s.phase = false ∧ t = s.raise .framing op ∨
        s.phase ≠ .uninit ∧ s.phase ≠ .closed ∧ accepts s.phase = true ∧ go s = .next t) := by
  obtain ⟨hf, h⟩ := State.running_next h
  refine ⟨hf, ?_⟩
  split at h
  · cases h
    exact .inl ⟨‹_›, rfl⟩
  · rename_i hp
    rw [not_or] at hp
    split at h
    · exact .inr (.inr ⟨hp.1, hp.2, ‹_›, h⟩)
    · cases h
      exact .inr (.inl ⟨hp.1, hp.2, by simpa using ‹¬accepts s.phase = true›, rfl⟩)

/-- What DISPLAYBEGIN or DISPLAYCLOSE has done when it answers a next state: raised FRAMING, or gone on. -/
theorem State.checkOutsideFrame_next {s t : State} {op : Byte} {go : State → Result}
    (h : s.checkOutsideFrame op go = .next t) :
    s.fault = none ∧
      ((s.phase = .started ∨ s.phase = .writing) ∧ t = s.raise .framing op ∨
        s.phase ≠ .started ∧ s.phase ≠ .writing ∧ go s = .next t) := by
  obtain ⟨hf, h⟩ := State.running_next h
  refine ⟨hf, ?_⟩
  split at h
  · cases h
    exact .inl ⟨‹_›, rfl⟩
  · rename_i hp
    rw [not_or] at hp
    exact .inr ⟨hp.1, hp.2, h⟩

/-! ### Samples -/

theorem State.sampleAt_zero (s : State) : s.sampleAt 0 = s.nextSample := by
  unfold State.sampleAt State.nextSample
  cases s.samples <;> simp

/-- A state that differs only in what was sampled before takes the same later samples. -/
theorem State.sampleAt_later {s t : State} {n : Nat} (hs : t.samples = s.samples.drop n) (hd : t.draws = s.draws + n)
    (k : Nat) : t.sampleAt k = s.sampleAt (n + k) := by
  simp [State.sampleAt, hs, hd, List.getElem?_drop, Nat.add_assoc]

theorem State.sentFrom_later {s t : State} {n : Nat} (hs : t.samples = s.samples.drop n) (hd : t.draws = s.draws + n)
    (k : Nat) (bytes : List Byte) : t.sentFrom k bytes = s.sentFrom (n + k) bytes := by
  simp [State.sentFrom, State.sampleAt_later hs hd, Nat.add_assoc]

@[simp] theorem State.sentFrom_nil (s : State) (k : Nat) : s.sentFrom k [] = [] := rfl

theorem State.sentFrom_cons (s : State) (k : Nat) (b : Byte) (bs : List Byte) :
    s.sentFrom k (b :: bs) = (b, s.sampleAt k) :: s.sentFrom (k + 1) bs := by
  simp [State.sentFrom, List.mapIdx_cons, Nat.add_assoc, Nat.add_comm 1]

@[simp] theorem State.sentFrom_length (s : State) (k : Nat) (bs : List Byte) : (s.sentFrom k bs).length = bs.length := by
  simp [State.sentFrom]

/-! ### Wire sequences in closed form -/

/-- START's sequence (40_protocol.md R101). -/
theorem State.startCondition_eq (s : State) :
    s.startCondition = { s with
      phase := .started, dio := ⟨.output, .low⟩, trace := s.trace ++ startActions s.cfg.bitDelayUs,
      rx := s.rx.openFrame } := by
  simp [State.startCondition, State.setDio, State.delay, State.act, startActions]

/-- STOP's sequence (R104). -/
theorem State.stopCondition_eq (s : State) :
    s.stopCondition = { s with
      phase := .idle, clk := ⟨.output, .high⟩, dio := ⟨.output, .high⟩,
      trace := s.trace ++ stopActions s.cfg.bitDelayUs, rx := s.rx.closeFrame s.cfg } := by
  simp [State.stopCondition, State.setDio, State.setClk, State.delay, State.act, stopActions]

/-- One bit of WRITEBYTE (R108). -/
theorem State.sendBit_eq (v : Bool) (s : State) :
    s.sendBit v = { s with
      clk := ⟨.output, .low⟩, dio := ⟨.output, .ofBit v⟩, trace := s.trace ++ bitActions s.cfg.bitDelayUs v } := by
  simp [State.sendBit, State.setDio, State.setClk, State.delay, State.act, bitActions]

/-- WRITEBYTE's sequence (R108): DIO's `out` stays at the last bit. -/
theorem State.sendByte_eq (b : Byte) (s : State) :
    s.sendByte b = { s with
      phase := .writing, clk := ⟨.output, .low⟩, dio := ⟨.input, .ofBit (b.getLsbD 7)⟩,
      lastAck := some (ackOf s.nextSample),
      trace := s.trace ++ byteActions s.cfg.bitDelayUs b s.nextSample,
      rx := s.rx.takeByte b (ackOf s.nextSample), samples := s.samples.tail, draws := s.draws + 1 } := by
  have hb : s.sendBits b = { s with
      clk := ⟨.output, .low⟩, dio := ⟨.output, .ofBit (b.getLsbD 7)⟩,
      trace := s.trace ++ (bitActions s.cfg.bitDelayUs (b.getLsbD 0) ++ bitActions s.cfg.bitDelayUs (b.getLsbD 1) ++
        bitActions s.cfg.bitDelayUs (b.getLsbD 2) ++ bitActions s.cfg.bitDelayUs (b.getLsbD 3) ++
        bitActions s.cfg.bitDelayUs (b.getLsbD 4) ++ bitActions s.cfg.bitDelayUs (b.getLsbD 5) ++
        bitActions s.cfg.bitDelayUs (b.getLsbD 6) ++ bitActions s.cfg.bitDelayUs (b.getLsbD 7)) } := by
    have hr : List.range 8 = [0, 1, 2, 3, 4, 5, 6, 7] := rfl
    simp only [State.sendBits, hr, List.foldl_cons, List.foldl_nil, State.sendBit_eq, List.append_assoc]
  simp only [State.sendByte, hb, State.ackPulse, State.releaseDio, State.setClk, State.sampleDio, State.delay, State.act,
    State.nextSample, byteActions, List.append_assoc, List.cons_append, List.nil_append]

/-- The last acknowledgement after some bytes: that of the last byte, or the one before if there is none. -/
def lastAckOf (before : Option Bool) (sent : List (Byte × Level)) : Option Bool :=
  match sent.getLast? with
  | some x => some (ackOf x.2)
  | none => before

/-- Sending bytes from a state in a frame: the acknowledgements are those of the samples in order, and only the lines,
the phase, the last acknowledgement, the trace, the open frame and the samples change. -/
theorem State.sendBytes_spec (bytes : List Byte) (s : State) :
    (s.sendBytes bytes).1 = (s.sentFrom 0 bytes).map (fun x => ackOf x.2) ∧
      ∃ clk dio phase, (s.sendBytes bytes).2 = { s with
        phase := phase, clk := clk, dio := dio,
        lastAck := lastAckOf s.lastAck (s.sentFrom 0 bytes),
        trace := s.trace ++ (s.sentFrom 0 bytes).flatMap (fun x => byteActions s.cfg.bitDelayUs x.1 x.2),
        rx := { s.rx with frame := s.rx.frame.map (· ++ acked (s.sentFrom 0 bytes)) },
        samples := s.samples.drop bytes.length, draws := s.draws + bytes.length } := by
  induction bytes generalizing s with
  | nil =>
    refine ⟨rfl, s.clk, s.dio, s.phase, ?_⟩
    cases h : s.rx.frame <;> simp [State.sendBytes, lastAckOf, acked, ← h]
  | cons b bs ih =>
    obtain ⟨h1, clk, dio, phase, h2⟩ := ih (s.sendByte b)
    have hs : (s.sendByte b).samples = s.samples.drop 1 := by simp [State.sendByte_eq, List.drop_one]
    have hd : (s.sendByte b).draws = s.draws + 1 := by simp [State.sendByte_eq]
    have hl := State.sentFrom_later hs hd 0 bs
    refine ⟨?_, clk, dio, phase, ?_⟩
    · simp [State.sendBytes, h1, hl, State.sentFrom_cons, State.sampleAt_zero]
    · rw [State.sendBytes]
      simp only [h2, hl, State.sentFrom_cons, Nat.zero_add, Nat.add_zero]
      simp only [State.sendByte_eq, State.sampleAt_zero, Receiver.takeByte, Option.map_map, List.flatMap_cons,
        List.append_assoc, List.length_cons, acked, List.map_cons]
      congr 1
      · cases hg : (s.sentFrom 1 bs).getLast? with
        | none =>
          have : s.sentFrom 1 bs = [] := by simpa using hg
          simp [lastAckOf, this]
        | some x => simp [lastAckOf, hg, List.getLast?_cons]
      · congr 1
        cases s.rx.frame <;> simp
      · simp
      · omega

/-- A transaction (R113): its acknowledgements, and everything it changes. -/
theorem State.transaction_eq (bytes : List Byte) (s : State) :
    s.transaction bytes = ((s.sentFrom 0 bytes).map (fun x => ackOf x.2), { s with
      phase := .idle, clk := ⟨.output, .high⟩, dio := ⟨.output, .high⟩,
      lastAck := lastAckOf s.lastAck (s.sentFrom 0 bytes),
      trace := s.trace ++ frameActions s.cfg.bitDelayUs (s.sentFrom 0 bytes),
      rx := { frame := none, view := s.rx.view.complete s.cfg (acked (s.sentFrom 0 bytes)) },
      samples := s.samples.drop bytes.length, draws := s.draws + bytes.length }) := by
  obtain ⟨h1, clk, dio, phase, h2⟩ := State.sendBytes_spec bytes s.startCondition
  have hl : s.startCondition.sentFrom 0 bytes = s.sentFrom 0 bytes := by
    simp [State.sentFrom, State.sampleAt, State.startCondition_eq]
  rw [hl] at h1 h2
  simp only [State.transaction, h1, h2, State.stopCondition_eq, Prod.mk.injEq, true_and]
  simp [State.startCondition_eq, Receiver.openFrame, Receiver.closeFrame, frameActions]

/-- SETSEGMENTS's two transactions (44_controller.md R173). The first sample is the data command's. -/
theorem State.sendSegments_eq (bytes : List Byte) (pos : Byte) (s : State) :
    s.sendSegments bytes pos =
      ((s.sentFrom 0 [dataCommand s.cfg] ++ s.sentFrom 1 (addressCommand s.cfg pos :: bytes)).map (fun x => ackOf x.2),
       { s with
        phase := .idle, clk := ⟨.output, .high⟩, dio := ⟨.output, .high⟩,
        lastAck := lastAckOf s.lastAck (s.sentFrom 1 (addressCommand s.cfg pos :: bytes)),
        trace := s.trace ++ frameActions s.cfg.bitDelayUs (s.sentFrom 0 [dataCommand s.cfg]) ++
          frameActions s.cfg.bitDelayUs (s.sentFrom 1 (addressCommand s.cfg pos :: bytes)),
        rx := Receiver.mk none
          ((s.rx.view.complete s.cfg (acked (s.sentFrom 0 [dataCommand s.cfg]))).complete s.cfg
            (acked (s.sentFrom 1 (addressCommand s.cfg pos :: bytes)))),
        samples := s.samples.drop (bytes.length + 2), draws := s.draws + (bytes.length + 2) }) := by
  have hl : ∀ l, (s.transaction [dataCommand s.cfg]).2.sentFrom 0 l = s.sentFrom 1 l := fun l =>
    State.sentFrom_later (by simp [State.transaction_eq]) (by simp [State.transaction_eq]) 0 l
  rw [State.sendSegments]
  simp only [State.transaction_eq, List.map_append] at hl ⊢
  simp only [hl, Prod.mk.injEq, true_and]
  congr 1
  · simp [State.sentFrom_cons, lastAckOf, List.getLast?_cons]
  · simp only [List.drop_drop, List.length_cons, List.length_nil]
    congr 1
    omega
  · simp only [List.length_cons, List.length_nil]
    omega

end Sys2Proof.Machine
end

