-- ==== Sys2Proof/Laws/Exec.lean ====
section
/-! SUPPORT. The meaning of each instruction in terms of the shared operations, and what an accepted operation does. -/

open Sys2Proof.Claims

namespace Sys2Proof.Machine

theorem exec_start (s : State) :
    exec .start s = s.check opStart inIdle fun s => .next (s.startCondition.reply (.ok .none)) := rfl

theorem exec_stop (s : State) :
    exec .stop s = s.check opStop inFrame fun s => .next (s.stopCondition.reply (.ok .none)) := rfl

theorem exec_bitDelay (s : State) : exec .bitDelay s = s.running fun s => .next (s.delay.reply (.ok .none)) := rfl

theorem exec_writeByte (b : Byte) (s : State) : exec (.writeByte b) s =
    s.check opWriteByte inFrame fun s => .next ((s.sendByte b).reply (.ok (.ack (ackOf s.nextSample)))) := rfl

theorem exec_encData (s : State) :
    exec .encData s = s.running fun s => .next (s.reply (.ok (.byte (dataCommand s.cfg)))) := rfl

theorem exec_encAddr (pos : Byte) (s : State) :
    exec (.encAddr pos) s = s.running fun s => .next (s.reply (.ok (.byte (addressCommand s.cfg pos)))) := rfl

theorem exec_encDisp (level : Byte) (on : Bool) (s : State) : exec (.encDisp level on) s =
    s.running fun s => .next (s.reply (.ok (.byte (displayCommand s.cfg level on)))) := rfl

theorem exec_encodeCharacter (ch : Byte) (s : State) :
    exec (.encodeCharacter ch) s = s.running fun s => .next (s.reply (.ok (.byte (glyphOf s.cfg ch)))) := rfl

theorem exec_encodeDecimal (v : BitVec 32) (lz : Bool) (len : Byte) (s : State) : exec (.encodeDecimal v lz len) s =
    s.running fun s => .next (s.reply (.ok (.bytes (formatDecimal s.cfg v lz len.toNat)))) := rfl

theorem exec_encodeDecimalWithDot (v : BitVec 32) (m : Byte) (lz : Bool) (len : Byte) (s : State) :
    exec (.encodeDecimalWithDot v m lz len) s =
      s.running fun s => .next (s.reply (.ok (.bytes (formatDecimalWithDot s.cfg v m lz len.toNat)))) := rfl

theorem exec_encodeString (t : List Byte) (m len pos : Byte) (s : State) : exec (.encodeString t m len pos) s =
    s.running fun s => .next (s.reply (.ok (.placed (formatString s.cfg t m len.toNat) pos))) := rfl

theorem exec_displayBegin (s : State) : exec .displayBegin s = s.checkOutsideFrame opDisplayBegin fun s =>
    .next (State.reply (.ok .none) { (s.setClk .high).setDio .high with phase := .idle }) := rfl

theorem exec_displayClose (s : State) : exec .displayClose s = s.checkOutsideFrame opDisplayClose fun s =>
    .next (State.reply (.ok .none) { s.releaseDio.releaseClk with phase := .closed }) := rfl

theorem exec_setSegments (buffer : List Byte) (len pos : Byte) (s : State) :
    exec (.setSegments buffer len pos) s = s.setSegments opSetSegments buffer len.toNat pos := rfl

theorem exec_displayClear (s : State) : exec .displayClear s =
    s.setSegments opDisplayClear (List.replicate s.cfg.digits 0x00) s.cfg.digits 0 := rfl

theorem exec_setBrightness (level : Byte) (on : Bool) (s : State) : exec (.setBrightness level on) s =
    s.check opSetBrightness inIdle fun s =>
      .next ((s.sendBrightness level on).2.reply (.ok (.acks (s.sendBrightness level on).1))) := rfl

theorem exec_displayDecimal (v : BitVec 32) (lz : Bool) (len pos : Byte) (s : State) :
    exec (.displayDecimal v lz len pos) s =
      s.setSegments opDisplayDecimal (formatDecimal s.cfg v lz len.toNat) len.toNat pos := rfl

theorem exec_displayDecimalWDot (v : BitVec 32) (m : Byte) (lz : Bool) (len pos : Byte) (s : State) :
    exec (.displayDecimalWDot v m lz len pos) s =
      s.setSegments opDisplayDecimalWDot (formatDecimalWithDot s.cfg v m lz len.toNat) len.toNat pos := rfl

theorem exec_displayString (t : List Byte) (m len pos : Byte) (s : State) :
    exec (.displayString t m len pos) s =
      s.setSegments opDisplayString (formatString s.cfg t m len.toNat) len.toNat pos := rfl

theorem exec_wireCmdData (s : State) : exec .wireCmdData s = s.sendWire (dataCommand s.cfg) := rfl

theorem exec_wireCmdAddr (pos : BitVec 3) (s : State) :
    exec (.wireCmdAddr pos) s = s.sendWire (addressCommand s.cfg (pos.setWidth 8)) := rfl

theorem exec_wireCmdDisp (on : Bool) (level : BitVec 3) (s : State) :
    exec (.wireCmdDisp on level) s = s.sendWire (displayCommand s.cfg (level.setWidth 8) on) := rfl

theorem exec_wireSegment (dp g f e d c b a : Bool) (s : State) :
    exec (.wireSegment dp g f e d c b a) s = s.sendWire (segmentByte dp g f e d c b a) := rfl

/-! ### Shared operations -/

/-- The state after a SETSEGMENTS that sends `bytes` at `pos`, and its acknowledgements. -/
theorem State.setSegments_pass {s : State} {op : Byte} {buffer : List Byte} {len : Nat} {pos : Byte}
    (hf : s.fault = none) (hp : s.phase = .idle) (hr : outOfRange s.cfg buffer.length len pos.toNat = false) :
    s.setSegments op buffer len pos =
      .next ((s.sendSegments (buffer.take len) pos).2.reply
        (.ok (.acks (s.sendSegments (buffer.take len) pos).1))) := by
  rw [State.setSegments, State.check_pass hf (by simp [hp]) (by simp [hp]) (by simp [hp, inIdle])]
  simp [hr]

/-- A SETSEGMENTS out of range is rejected before any action (44_controller.md R174). -/
theorem State.setSegments_errRange {s : State} {op : Byte} {buffer : List Byte} {len : Nat} {pos : Byte}
    (hf : s.fault = none) (hp : s.phase = .idle) (hr : outOfRange s.cfg buffer.length len pos.toNat = true) :
    s.setSegments op buffer len pos = .next (s.reply .errRange) := by
  rw [State.setSegments, State.check_pass hf (by simp [hp]) (by simp [hp]) (by simp [hp, inIdle])]
  simp [hr]

/-- What SETSEGMENTS has done when it answers a next state. -/
theorem State.setSegments_next {s t : State} {op : Byte} {buffer : List Byte} {len : Nat} {pos : Byte}
    (h : s.setSegments op buffer len pos = .next t) :
    s.fault = none ∧
      ((s.phase = .uninit ∨ s.phase = .closed) ∧ t = s.raise .notOpen op ∨
        (s.phase = .started ∨ s.phase = .writing) ∧ t = s.raise .framing op ∨
        s.phase = .idle ∧ outOfRange s.cfg buffer.length len pos.toNat = true ∧ t = s.reply .errRange ∨
        s.phase = .idle ∧ outOfRange s.cfg buffer.length len pos.toNat = false ∧
          t = (s.sendSegments (buffer.take len) pos).2.reply
            (.ok (.acks (s.sendSegments (buffer.take len) pos).1))) := by
  obtain ⟨hf, h⟩ := State.check_next h
  refine ⟨hf, ?_⟩
  rcases h with h | ⟨hu, hc, hi, rfl⟩ | ⟨-, -, hi, h⟩
  · exact .inl h
  · refine .inr (.inl ⟨?_, rfl⟩)
    cases hp : s.phase <;> simp_all [inIdle]
  · have hp : s.phase = .idle := by simpa [inIdle] using hi
    split at h <;> cases h
    · exact .inr (.inr (.inl ⟨hp, ‹_›, rfl⟩))
    · exact .inr (.inr (.inr ⟨hp, by simpa using ‹¬outOfRange _ _ _ _ = true›, rfl⟩))

/-- A wire byte in a frame is sent as WRITEBYTE sends it. -/
theorem State.sendWire_pass {s : State} {b : Byte} (hf : s.fault = none)
    (hp : s.phase = .started ∨ s.phase = .writing) :
    s.sendWire b = .next ((s.sendByte b).reply (.ok (.ack (ackOf s.nextSample)))) := by
  rw [State.sendWire, State.check_pass hf (by rcases hp with h | h <;> simp [h]) (by rcases hp with h | h <;> simp [h])
    (by rcases hp with h | h <;> simp [h, inFrame])]

/-- What a wire byte has done when it answers a next state. -/
theorem State.sendWire_next {s t : State} {b : Byte} (h : s.sendWire b = .next t) :
    s.fault = none ∧
      ((s.phase = .uninit ∨ s.phase = .closed) ∧ t = s.raise .notOpen opWriteByte ∨
        s.phase = .idle ∧ t = s.raise .framing opWriteByte ∨
        (s.phase = .started ∨ s.phase = .writing) ∧
          t = (s.sendByte b).reply (.ok (.ack (ackOf s.nextSample)))) := by
  obtain ⟨hf, h⟩ := State.check_next h
  refine ⟨hf, ?_⟩
  rcases h with h | ⟨hu, hc, hi, rfl⟩ | ⟨-, -, hi, h⟩
  · exact .inl h
  · refine .inr (.inl ⟨?_, rfl⟩)
    cases hp : s.phase <;> simp_all [inFrame]
  · cases h
    exact .inr (.inr ⟨by simpa [inFrame] using hi, rfl⟩)

/-- What SETBRIGHTNESS sends and leaves (44_controller.md R178). -/
theorem State.sendBrightness_eq (level : Byte) (on : Bool) (s : State) :
    s.sendBrightness level on =
      ([ackOf (s.sampleAt 0)], { s with
        bright := some ⟨brightnessLevel level, on⟩, phase := .idle, clk := ⟨.output, .high⟩, dio := ⟨.output, .high⟩,
        lastAck := some (ackOf (s.sampleAt 0)),
        trace := s.trace ++ frameActions s.cfg.bitDelayUs [(displayCommand s.cfg level on, s.sampleAt 0)],
        rx := ⟨none, s.rx.view.complete s.cfg [(displayCommand s.cfg level on, ackOf (s.sampleAt 0))]⟩,
        samples := s.samples.drop 1, draws := s.draws + 1 }) := by
  simp [State.sendBrightness, State.transaction_eq, State.sentFrom_cons, lastAckOf, acked, State.sampleAt]

/-- The instruction sends one byte inside a frame that the host opened. -/
def sendsOne (i : Instr) : Bool := sendsBytes i && !transmits i

/-- What an instruction can have done when it answers a next state. -/
inductive Did (i : Instr) (s : State) : State → Prop where
  /-- It raised a fault under its own id (60_exceptions.md R206). -/
  | raised (code : FaultCode)
      (hp : code = .notOpen ∧ NotOpen s ∨ code = .framing ∧ ¬NotOpen s)
      (hi : code = .framing → isPrimitive i = false → InTransaction s) : Did i s (s.raise code (recordedId i))
  /-- A pure operation: it only answered. -/
  | answered (v : Value) (hi : sendsBytes i = false) (hn : actionCount s.cfg i = 0) (hd : delaysOf s.cfg i = 0)
      (hr : rangeOf i = none) : Did i s (s.reply (.ok v))
  /-- A call rejected with ERR_RANGE (44_controller.md R174). -/
  | rejected (hi : transmits i = true) (hp : s.phase = .idle) : Did i s (s.reply .errRange)
  | delayed (hi : i = .bitDelay) : Did i s (s.delay.reply (.ok .none))
  | started (hi : i = .start) (hp : s.phase = .idle) : Did i s (s.startCondition.reply (.ok .none))
  | stopped (hi : i = .stop) (hp : s.phase = .started ∨ s.phase = .writing) : Did i s (s.stopCondition.reply (.ok .none))
  /-- WRITEBYTE or a wire byte kind: one byte and its acknowledgement. -/
  | sent (b : Byte) (hi : sendsOne i = true) (hp : s.phase = .started ∨ s.phase = .writing) :
    Did i s ((s.sendByte b).reply (.ok (.ack (ackOf s.nextSample))))
  | begun (hi : i = .displayBegin) (hs : s.phase ≠ .started) (hw : s.phase ≠ .writing) :
    Did i s (State.reply (.ok .none) { (s.setClk .high).setDio .high with phase := .idle })
  | closed (hi : i = .displayClose) (hs : s.phase ≠ .started) (hw : s.phase ≠ .writing) :
    Did i s (State.reply (.ok .none) { s.releaseDio.releaseClk with phase := .closed })
  /-- SETSEGMENTS, or an operation over it: two frames. -/
  | sentSegments (buffer : List Byte) (len : Nat) (pos : Byte) (hi : segmentsOf s.cfg i = some len)
      (hp : s.phase = .idle) (hr : outOfRange s.cfg buffer.length len pos.toNat = false) :
    Did i s ((s.sendSegments (buffer.take len) pos).2.reply
      (.ok (.acks (s.sendSegments (buffer.take len) pos).1)))
  /-- SETBRIGHTNESS: one frame. -/
  | sentBrightness (level : Byte) (on : Bool) (hi : i = .setBrightness level on) (hp : s.phase = .idle) :
    Did i s ((s.sendBrightness level on).2.reply (.ok (.acks (s.sendBrightness level on).1)))

/-- The inversion of exec over all instructions: from no recorded fault, one of the cases of `Did`. -/
theorem exec_next {i : Instr} {s t : State} (h : exec i s = .next t) : s.fault = none ∧ Did i s t := by
  have frame : inFrame s.phase = true → s.phase = .started ∨ s.phase = .writing := fun h => by simpa [inFrame] using h
  have idle : inIdle s.phase = true → s.phase = .idle := fun h => by simpa [inIdle] using h
  have opened : s.phase ≠ .uninit → s.phase ≠ .closed → ¬NotOpen s := fun h1 h2 h => h.elim h1 h2
  have segments : ∀ {op buffer len pos}, s.setSegments op buffer len pos = .next t → op = recordedId i →
      segmentsOf s.cfg i = some len → transmits i = true → s.fault = none ∧ Did i s t := by
    intro op buffer len pos h ho hl ht
    obtain ⟨hf, ⟨hp, rfl⟩ | ⟨hp, rfl⟩ | ⟨hp, -, rfl⟩ | ⟨hp, hr, rfl⟩⟩ := State.setSegments_next h
    · exact ⟨hf, ho ▸ .raised _ (.inl ⟨rfl, hp⟩) (by simp)⟩
    · exact ⟨hf, ho ▸ .raised _ (.inr ⟨rfl, opened (by rcases hp with h | h <;> simp [h]) (by rcases hp with h | h <;> simp [h])⟩) fun _ _ => hp⟩
    · exact ⟨hf, .rejected ht hp⟩
    · exact ⟨hf, .sentSegments _ _ _ hl hp hr⟩
  have wire : ∀ {b}, s.sendWire b = .next t → opWriteByte = recordedId i → sendsOne i = true →
      isPrimitive i = true → s.fault = none ∧ Did i s t := by
    intro b h ho hs hw
    obtain ⟨hf, ⟨hp, rfl⟩ | ⟨hp, rfl⟩ | ⟨hp, rfl⟩⟩ := State.sendWire_next h
    · exact ⟨hf, ho ▸ .raised _ (.inl ⟨rfl, hp⟩) (by simp)⟩
    · exact ⟨hf, ho ▸ .raised _ (.inr ⟨rfl, opened (by simp [hp]) (by simp [hp])⟩) (by simp [hw])⟩
    · exact ⟨hf, .sent _ hs hp⟩
  have checked : ∀ {op accepts go}, s.check op accepts go = .next t → op = recordedId i →
      (accepts s.phase = false → isPrimitive i = false → ¬NotOpen s → InTransaction s) →
      (accepts s.phase = true → go s = .next t → Did i s t) → s.fault = none ∧ Did i s t := by
    intro op accepts go h ho hp hgo
    obtain ⟨hf, ⟨hp, rfl⟩ | ⟨h1, h2, ha, rfl⟩ | ⟨-, -, hi, h⟩⟩ := State.check_next h
    · exact ⟨hf, ho ▸ .raised _ (.inl ⟨rfl, hp⟩) (by simp)⟩
    · exact ⟨hf, ho ▸ .raised _ (.inr ⟨rfl, opened h1 h2⟩) fun _ hi => hp ha hi (opened h1 h2)⟩
    · exact ⟨hf, hgo hi h⟩
  have answer : ∀ {v : State → Value}, (s.running fun s => .next (s.reply (.ok (v s)))) = .next t →
      sendsBytes i = false → actionCount s.cfg i = 0 → delaysOf s.cfg i = 0 → rangeOf i = none →
      s.fault = none ∧ Did i s t := by
    intro v h hs hn hd hr
    obtain ⟨hf, h⟩ := State.running_next h
    cases h
    exact ⟨hf, .answered _ hs hn hd hr⟩
  have outside : ∀ {op go}, s.checkOutsideFrame op go = .next t → op = recordedId i →
      (s.phase ≠ .started → s.phase ≠ .writing → go s = .next t → Did i s t) → s.fault = none ∧ Did i s t := by
    intro op go h ho hgo
    obtain ⟨hf, ⟨hp, rfl⟩ | ⟨h1, h2, h⟩⟩ := State.checkOutsideFrame_next h
    · exact ⟨hf, ho ▸ .raised _ (.inr ⟨rfl, opened (by rcases hp with h | h <;> simp [h]) (by rcases hp with h | h <;> simp [h])⟩) fun _ _ => hp⟩
    · exact ⟨hf, hgo h1 h2 h⟩
  cases i with
  | start => exact checked (exec_start s ▸ h) rfl (by simp [isPrimitive]) fun hi h => by cases h; exact .started rfl (idle hi)
  | stop => exact checked (exec_stop s ▸ h) rfl (by simp [isPrimitive]) fun hi h => by cases h; exact .stopped rfl (frame hi)
  | writeByte b =>
    exact checked (exec_writeByte b s ▸ h) rfl (by simp [isPrimitive]) fun hi h => by cases h; exact .sent b rfl (frame hi)
  | setBrightness level on =>
    refine checked (exec_setBrightness level on s ▸ h) rfl ?_ fun hi h => by cases h; exact .sentBrightness level on rfl (idle hi)
    intro ha _ hn
    unfold NotOpen at hn
    unfold InTransaction
    cases hp : s.phase <;> simp_all [inIdle]
  | bitDelay =>
    obtain ⟨hf, h⟩ := State.running_next (exec_bitDelay s ▸ h)
    cases h
    exact ⟨hf, .delayed rfl⟩
  | displayBegin => exact outside (exec_displayBegin s ▸ h) rfl fun h1 h2 h => by cases h; exact .begun rfl h1 h2
  | displayClose => exact outside (exec_displayClose s ▸ h) rfl fun h1 h2 h => by cases h; exact .closed rfl h1 h2
  | wireCmdData => exact wire h rfl rfl rfl
  | wireCmdAddr _ => exact wire h rfl rfl rfl
  | wireCmdDisp _ _ => exact wire h rfl rfl rfl
  | wireSegment _ _ _ _ _ _ _ _ => exact wire h rfl rfl rfl
  | setSegments _ _ _ => exact segments h rfl rfl rfl
  | displayClear => exact segments h rfl rfl rfl
  | displayDecimal _ _ _ _ => exact segments h rfl rfl rfl
  | displayDecimalWDot _ _ _ _ _ => exact segments h rfl rfl rfl
  | displayString _ _ _ _ => exact segments h rfl rfl rfl
  | encData => exact answer (exec_encData s ▸ h) rfl rfl rfl rfl
  | encAddr pos => exact answer (exec_encAddr pos s ▸ h) rfl rfl rfl rfl
  | encDisp level on => exact answer (exec_encDisp level on s ▸ h) rfl rfl rfl rfl
  | encodeCharacter ch => exact answer (exec_encodeCharacter ch s ▸ h) rfl rfl rfl rfl
  | encodeDecimal v lz len => exact answer (exec_encodeDecimal v lz len s ▸ h) rfl rfl rfl rfl
  | encodeDecimalWithDot v m lz len => exact answer (exec_encodeDecimalWithDot v m lz len s ▸ h) rfl rfl rfl rfl
  | encodeString text m len pos => exact answer (exec_encodeString text m len pos s ▸ h) rfl rfl rfl rfl

/-- A step that answers a next state waited, or executed an instruction on the state without its request. -/
theorem step_next {s t : State} (h : step s = .next t) :
    s.fault = none ∧
      (t = s ∧ s.requests = [] ∨ ∃ i rest s', s' = { s with requests := rest } ∧ exec i s' = .next t) := by
  unfold step at h
  split at h
  · cases h
  · rename_i hf hn
    cases h
    refine ⟨hf, .inl ⟨rfl, ?_⟩⟩
    unfold fetch at hn
    split at hn <;> simp_all
  · rename_i i s' hf hs
    refine ⟨hf, .inr ?_⟩
    unfold fetch at hs
    split at hs
    · simp at hs
    · simp only [Option.some.injEq, Prod.mk.injEq] at hs
      exact ⟨i, _, s', hs.2.symm, h⟩
  · cases h

end Sys2Proof.Machine
end

