-- ==== Sys2Proof/Laws/Memory.lean ====
section
/-! SUPPORT. What the memory operations do to a read, and that each keeps the canonical form. -/

namespace Sys2Proof.Machine

/-- Every listed address of a canonical memory's tail is above its head. -/
theorem Memory.wf_cons {k : Nat} {v : Byte} {m : Memory} :
    Memory.wf ((k, v) :: m) ↔ (∀ cell ∈ m, k < cell.1) ∧ Memory.wf m := List.pairwise_cons

/-- An address below every listed one is unknown. -/
theorem Memory.read_of_lt {m : Memory} {a : Nat} (h : ∀ cell ∈ m, a < cell.1) : m.read a = none := by
  induction m with
  | nil => rfl
  | cons cell m ih =>
    obtain ⟨k, v⟩ := cell
    have hk : a < k := h (k, v) (by simp)
    have : k ≠ a := by omega
    simp only [Memory.read, this, if_false]
    exact ih fun cell hc => h cell (by simp [hc])

/-- Writing adds the address to the listed ones and no other. -/
theorem Memory.mem_write {m : Memory} {a : Nat} {v : Byte} {cell : Host.Cell} (h : cell ∈ m.write a v) :
    cell = (a, v) ∨ cell ∈ m := by
  induction m with
  | nil => simpa [Memory.write] using h
  | cons head m ih =>
    obtain ⟨k, w⟩ := head
    unfold Memory.write at h
    split at h
    · simpa using h
    · split at h
      · rcases List.mem_cons.mp h with h | h
        · exact .inl h
        · exact .inr (by simp [h])
      · rcases List.mem_cons.mp h with h | h
        · exact .inr (by simp [h])
        · rcases ih h with h | h
          · exact .inl h
          · exact .inr (by simp [h])

/-- A write keeps the canonical form. -/
theorem Memory.write_wf {m : Memory} {a : Nat} {v : Byte} (h : m.wf) : (m.write a v).wf := by
  induction m with
  | nil => simp [Memory.write]
  | cons head m ih =>
    obtain ⟨k, w⟩ := head
    obtain ⟨hk, hm⟩ := Memory.wf_cons.mp h
    unfold Memory.write
    split
    · rename_i hak
      refine Memory.wf_cons.mpr ⟨?_, h⟩
      intro cell hc
      rcases List.mem_cons.mp hc with rfl | hc
      · exact hak
      · exact hak.trans (hk cell hc)
    · split
      · rename_i hak
        subst hak
        exact Memory.wf_cons.mpr ⟨hk, hm⟩
      · refine Memory.wf_cons.mpr ⟨?_, ih hm⟩
        intro cell hc
        rcases Memory.mem_write hc with rfl | hc
        · simp only; omega
        · exact hk cell hc

/-- A read after a write of the same address gives the byte; every other address reads as before. -/
theorem Memory.read_write (m : Memory) (a b : Nat) (v : Byte) :
    (m.write a v).read b = if b = a then some v else m.read b := by
  induction m with
  | nil => simp [Memory.write, Memory.read, eq_comm]
  | cons head m ih =>
    obtain ⟨k, w⟩ := head
    unfold Memory.write
    split
    · by_cases hb : b = a
      · simp [Memory.read, hb]
      · simp [Memory.read, hb, Ne.symm hb]
    · split
      · rename_i _ h
        subst h
        by_cases hb : b = a
        · simp [Memory.read, hb]
        · simp [Memory.read, hb, Ne.symm hb]
      · rename_i _ h
        by_cases hb : k = b
        · subst hb
          simp [Memory.read, Ne.symm h]
        · simp [Memory.read, hb, ih]

/-- Forgetting keeps the canonical form. -/
theorem Memory.forget_wf {m : Memory} {a : Nat} (h : m.wf) : (m.forget a).wf := h.filter _

/-- A forgotten address is unknown; every other address reads as before. -/
theorem Memory.read_forget (m : Memory) (a b : Nat) :
    (m.forget a).read b = if b = a then none else m.read b := by
  induction m with
  | nil => simp [Memory.forget, Memory.read]
  | cons head m ih =>
    obtain ⟨k, w⟩ := head
    unfold Memory.forget at ih ⊢
    by_cases hk : k = a
    · subst hk
      simp only [List.filter_cons, bne_self_eq_false, Bool.false_eq_true, if_false, ih, Memory.read]
      by_cases hb : b = k
      · simp [hb]
      · simp [hb, Ne.symm hb]
    · simp only [List.filter_cons, bne_iff_ne, ne_eq, hk, not_false_eq_true, if_true, Memory.read, ih]
      by_cases hb : k = b
      · subst hb; simp [hk]
      · simp [hb]

/-- Writing consecutive bytes keeps the canonical form. -/
theorem Memory.writeAll_wf {m : Memory} {a : Nat} {bs : List Byte} (h : m.wf) : (m.writeAll a bs).wf := by
  induction bs generalizing m a with
  | nil => exact h
  | cons b bs ih => exact ih (Memory.write_wf h)

/-- Forgetting consecutive addresses keeps the canonical form. -/
theorem Memory.forgetAll_wf {m : Memory} {a n : Nat} (h : m.wf) : (m.forgetAll a n).wf := by
  induction n generalizing m a with
  | zero => exact h
  | succ n ih => exact ih (Memory.forget_wf h)

/-- The k-th byte written from `a` is read at `a + k`; every address outside reads as before. -/
theorem Memory.read_writeAll (m : Memory) (a b : Nat) (bs : List Byte) :
    (m.writeAll a bs).read b = if a ≤ b ∧ b < a + bs.length then bs[b - a]? else m.read b := by
  induction bs generalizing m a with
  | nil => simp [Memory.writeAll]
  | cons x bs ih =>
    rw [Memory.writeAll, ih, Memory.read_write]
    by_cases hb : b = a
    · subst hb; simp
    · by_cases h1 : a + 1 ≤ b ∧ b < a + 1 + bs.length
      · have h2 : a ≤ b ∧ b < a + (x :: bs).length := by simp; omega
        have h3 : b - a = (b - (a + 1)) + 1 := by omega
        rw [if_pos h1, if_pos h2, h3, List.getElem?_cons_succ]
      · have h2 : ¬(a ≤ b ∧ b < a + (x :: bs).length) := by simp; omega
        rw [if_neg h1, if_neg h2, if_neg hb]

/-- Consecutive forgotten addresses are unknown; every address outside reads as before. -/
theorem Memory.read_forgetAll (m : Memory) (a b n : Nat) :
    (m.forgetAll a n).read b = if a ≤ b ∧ b < a + n then none else m.read b := by
  induction n generalizing m a with
  | zero => simp [Memory.forgetAll]
  | succ n ih =>
    rw [Memory.forgetAll, ih, Memory.read_forget]
    by_cases hb : b = a
    · subst hb; simp
    · by_cases h1 : a + 1 ≤ b ∧ b < a + 1 + n
      · rw [if_pos h1, if_pos (by omega)]
      · rw [if_neg h1, if_neg hb, if_neg (by omega)]

/-- Writing lists no address outside the bytes written. -/
theorem Memory.mem_writeAll {m : Memory} {a : Nat} {bs : List Byte} {cell : Host.Cell} (h : cell ∈ m.writeAll a bs) :
    cell.1 < a + bs.length ∨ cell ∈ m := by
  induction bs generalizing m a with
  | nil => exact .inr h
  | cons b bs ih =>
    rcases ih h with h | h
    · left; simp; omega
    · rcases Memory.mem_write h with rfl | h
      · left; simp
      · exact .inr h

/-- Forgetting lists nothing new. -/
theorem Memory.mem_forgetAll {m : Memory} {a n : Nat} {cell : Host.Cell} (h : cell ∈ m.forgetAll a n) : cell ∈ m := by
  induction n generalizing m a with
  | zero => exact h
  | succ n ih => exact (List.mem_filter.mp (ih h)).1

/-- A complete frame keeps the display memory canonical and inside the display. -/
theorem View.complete_display {c : Config} {frame : List (Byte × Bool)} {v : View}
    (h : v.disp.wf ∧ ∀ cell ∈ v.disp, cell.1 < c.digits) :
    (v.complete c frame).disp.wf ∧ ∀ cell ∈ (v.complete c frame).disp, cell.1 < c.digits := by
  unfold View.complete
  split
  · simp [View.unknown]
  · split
    · exact h
    · split
      · exact h
      · split <;> exact h
      · unfold View.address
        split
        · simp [View.unknown]
        · rename_i hfit
          split
          · refine ⟨Memory.writeAll_wf h.1, fun cell hc => ?_⟩
            rcases Memory.mem_writeAll hc with hc | hc
            · omega
            · exact h.2 cell hc
          · exact ⟨Memory.forgetAll_wf h.1, fun cell hc => h.2 cell (Memory.mem_forgetAll hc)⟩
      · simp [View.unknown]

end Sys2Proof.Machine
end

