-- ==== Sys2Proof/Laws/PerInstr.lean ====
section
/-! SUPPORT. Per instruction: how many bytes its encoding takes (30_encoding.md R73, R76). -/

namespace Sys2Proof.Laws.RecordLength

/-- The record length column of R73; n is the number of elements of the `bytes` argument. A wire byte is one byte
(R76). -/
def bytesOf : Instr → Nat
  | .start | .stop | .bitDelay => 1
  | .writeByte _ => 2
  | .encData => 1
  | .encAddr _ => 2
  | .encDisp _ _ => 3
  | .encodeCharacter _ => 2
  | .encodeDecimal _ _ _ => 7
  | .encodeDecimalWithDot _ _ _ _ => 8
  | .encodeString text _ _ _ => 5 + text.length
  | .displayBegin | .displayClose | .displayClear => 1
  | .setBrightness _ _ => 3
  | .setSegments buffer _ _ => 4 + buffer.length
  | .displayDecimal _ _ _ _ => 8
  | .displayDecimalWDot _ _ _ _ _ => 9
  | .displayString text _ _ _ => 5 + text.length
  | .wireCmdData | .wireCmdAddr _ | .wireCmdDisp _ _ | .wireSegment _ _ _ _ _ _ _ _ => 1

/-- The instruction's encoding has the length R73 gives, under every configuration. -/
def Statement (i : Instr) : Prop := ∀ c : Config, (encode c i).length = bytesOf i

theorem start : Statement .start := fun _ => rfl
theorem stop : Statement .stop := fun _ => rfl
theorem bitDelay : Statement .bitDelay := fun _ => rfl
theorem writeByte (byte : Byte) : Statement (.writeByte byte) := fun _ => rfl
theorem encData : Statement .encData := fun _ => rfl
theorem encAddr (pos : Byte) : Statement (.encAddr pos) := fun _ => rfl
theorem encDisp (level : Byte) (on : Bool) : Statement (.encDisp level on) := fun _ => rfl
theorem encodeCharacter (ch : Byte) : Statement (.encodeCharacter ch) := fun _ => rfl

theorem encodeDecimal (value : BitVec 32) (leadingZero : Bool) (length : Byte) :
    Statement (.encodeDecimal value leadingZero length) := fun _ => rfl

theorem encodeDecimalWithDot (value : BitVec 32) (dotMask : Byte) (leadingZero : Bool) (length : Byte) :
    Statement (.encodeDecimalWithDot value dotMask leadingZero length) := fun _ => rfl

theorem encodeString (text : List Byte) (dotMask length position : Byte) :
    Statement (.encodeString text dotMask length position) := fun _ => by
  simp [encode, putBytes, bytesOf]; omega

theorem displayBegin : Statement .displayBegin := fun _ => rfl
theorem displayClose : Statement .displayClose := fun _ => rfl
theorem displayClear : Statement .displayClear := fun _ => rfl
theorem setBrightness (level : Byte) (on : Bool) : Statement (.setBrightness level on) := fun _ => rfl

theorem setSegments (buffer : List Byte) (length position : Byte) :
    Statement (.setSegments buffer length position) := fun _ => by
  simp [encode, putBytes, bytesOf]; omega

theorem displayDecimal (value : BitVec 32) (leadingZero : Bool) (length position : Byte) :
    Statement (.displayDecimal value leadingZero length position) := fun _ => rfl

theorem displayDecimalWDot (value : BitVec 32) (dotMask : Byte) (leadingZero : Bool) (length position : Byte) :
    Statement (.displayDecimalWDot value dotMask leadingZero length position) := fun _ => rfl

theorem displayString (text : List Byte) (dotMask length position : Byte) :
    Statement (.displayString text dotMask length position) := fun _ => by
  simp [encode, putBytes, bytesOf]; omega

theorem wireCmdData : Statement .wireCmdData := fun _ => rfl
theorem wireCmdAddr (pos : BitVec 3) : Statement (.wireCmdAddr pos) := fun _ => rfl
theorem wireCmdDisp (on : Bool) (level : BitVec 3) : Statement (.wireCmdDisp on level) := fun _ => rfl
theorem wireSegment (dp g f e d c b a : Bool) : Statement (.wireSegment dp g f e d c b a) := fun _ => rfl

end Sys2Proof.Laws.RecordLength
end

