-- ==== Sys2Proof/Laws/Wire.lean ====
section
/-! SUPPORT. Where the wire contract is claimed (70_reset_and_hazards.md R235, R240), and what is read off a trace there
and elsewhere. -/

namespace Sys2Proof.Machine

/-- What the receiver reads is claimed exactly for a delay it accepts, and then it is the reading of the trace. -/
@[simp] theorem received_eq_some {c : Config} {trace : List Action} {w : Wire} :
    received c trace = some w ↔ c.slowEnough = true ∧ w = Wire.ofTrace trace := by
  by_cases h : c.slowEnough = true
  · simp only [received, h, if_true, Option.some.injEq, true_and]
    exact eq_comm
  · simp only [received, h, if_false, reduceCtorEq, false_and, Bool.false_eq_true]

/-- The frames that are claimed are the frames of the trace. -/
theorem framesOfTrace_eq_some {c : Config} {trace : List Action} {frames : List (List (Byte × Bool))} :
    framesOfTrace c trace = some frames ↔ c.slowEnough = true ∧ frames = (Wire.ofTrace trace).frames := by
  simp only [framesOfTrace, Option.map_eq_some_iff, received_eq_some]
  exact ⟨fun ⟨_, ⟨h, hw⟩, hf⟩ => ⟨h, hw ▸ hf.symm⟩, fun ⟨h, hf⟩ => ⟨_, ⟨h, rfl⟩, hf.symm⟩⟩

/-- Where the contract is claimed, the view is the effect of the trace's frames in order. -/
theorem viewOfTrace_claimed {c : Config} {trace : List Action} (h : c.slowEnough = true) :
    viewOfTrace c trace = (Wire.ofTrace trace).frames.foldl (fun v f => v.complete c f) .unknown := by
  simp [viewOfTrace, framesOfTrace, received, h]

/-- Elsewhere the view is unknown. -/
theorem viewOfTrace_unclaimed {c : Config} {trace : List Action} (h : c.slowEnough = false) :
    viewOfTrace c trace = .unknown := by
  simp [viewOfTrace, framesOfTrace, received, h]

/-- A frame leaves the view unknown where the contract is not claimed. -/
theorem View.complete_unclaimed {c : Config} {frame : List (Byte × Bool)} {v : View} (h : c.slowEnough = false) :
    v.complete c frame = .unknown := by
  simp [View.complete, h]

/-- More of a trace is read from where the reading of its beginning stopped. -/
theorem Wire.ofTrace_append (before more : List Action) :
    Wire.ofTrace (before ++ more) = more.foldl Wire.feed (Wire.ofTrace before) := by
  simp [Wire.ofTrace, List.foldl_append]

end Sys2Proof.Machine
end

