-- ==== Sys2Proof/Machine/Text.lean ====
section
/-! DEFINITION. The call syntax of the operations (30_encoding.md R83). -/

namespace Sys2Proof

/-- A hexadecimal digit, in capitals as R83's example has it. -/
def hexDigit (n : Nat) : String :=
  (["0", "1", "2", "3", "4", "5", "6", "7", "8", "9", "A", "B", "C", "D", "E", "F"][n % 16]?).getD "0"

/-- A byte of a byte sequence: 0x and two digits (R83). -/
def hexByte (b : Byte) : String := "0x" ++ hexDigit (b.toNat / 16) ++ hexDigit b.toNat

/-- A byte sequence, `[b0, b1, ...]`, with a separator between its elements (R83). -/
def bytesText (separator : String) (l : List Byte) : String :=
  "[" ++ String.intercalate separator (l.map hexByte) ++ "]"

/-- A printable ASCII character other than the double quote, which a double-quoted text can hold. -/
def quotable (b : Byte) : Bool := decide (0x20 ≤ b.toNat) && decide (b.toNat ≤ 0x7E) && b != 0x22

/-- A text, double-quoted ASCII (R83). A text with other codes is written as a byte sequence (log entry 20). -/
def quotedText (separator : String) (l : List Byte) : String :=
  if l.all quotable then "\"" ++ String.ofList (l.map fun b => Char.ofNat b.toNat) ++ "\"" else bytesText separator l

/-- An argument as it is written. -/
inductive Arg where
  /-- A number in decimal. -/
  | num (n : Int)
  /-- A byte or character code in hexadecimal. -/
  | code (b : Byte)
  | bool (b : Bool)
  | bytes (l : List Byte)
  | text (l : List Byte)
  deriving DecidableEq, Repr

/-- A `u8` as a number. -/
def Arg.u8 (b : Byte) : Arg := .num b.toNat

/-- An argument, with the separator of byte sequences (R83). -/
def Arg.write (separator : String) : Arg → String
  | .num n => toString n
  | .code b => hexByte b
  | .bool b => if b then "true" else "false"
  | .bytes l => bytesText separator l
  | .text l => quotedText separator l

/-- An operation as it is written: the source's name, the mnemonic and the arguments in order (R73). -/
structure Call where
  name : String
  mnemonic : String
  args : List Arg
  deriving DecidableEq, Repr

/-- The source's name, the mnemonic and the arguments of an instruction (R73, and spec/opcode_table.json for the wire byte
kinds). Where the source has no call, the mnemonic stands for the name too (log entry 20). -/
def Instr.call : Instr → Call
  | .start => ⟨"start", "START", []⟩
  | .stop => ⟨"stop", "STOP", []⟩
  | .bitDelay => ⟨"bitDelay", "BITDELAY", []⟩
  | .writeByte byte => ⟨"writeByte", "WRITEBYTE", [.code byte]⟩
  | .encData => ⟨"ENC_DATA", "ENC_DATA", []⟩
  | .encAddr pos => ⟨"ENC_ADDR", "ENC_ADDR", [.u8 pos]⟩
  | .encDisp level on => ⟨"ENC_DISP", "ENC_DISP", [.u8 level, .bool on]⟩
  | .encodeCharacter ch => ⟨"encodeCharacter", "ENCODECHARACTER", [.code ch]⟩
  | .encodeDecimal value leadingZero length =>
    ⟨"encodeDecimal", "ENCODEDECIMAL", [.num value.toInt, .bool leadingZero, .u8 length]⟩
  | .encodeDecimalWithDot value dotMask leadingZero length =>
    ⟨"encodeDecimalWithDot", "ENCODEDECIMALWITHDOT", [.num value.toInt, .u8 dotMask, .bool leadingZero, .u8 length]⟩
  | .encodeString text dotMask length position =>
    ⟨"encodeString", "ENCODESTRING", [.text text, .u8 dotMask, .u8 length, .u8 position]⟩
  | .displayBegin => ⟨"displayBegin", "DISPLAYBEGIN", []⟩
  | .displayClose => ⟨"displayClose", "DISPLAYCLOSE", []⟩
  | .displayClear => ⟨"displayClear", "DISPLAYCLEAR", []⟩
  | .setBrightness level on => ⟨"setBrightness", "SETBRIGHTNESS", [.u8 level, .bool on]⟩
  | .setSegments buffer length position =>
    ⟨"setSegments", "SETSEGMENTS", [.bytes buffer, .u8 length, .u8 position]⟩
  | .displayDecimal value leadingZero length position =>
    ⟨"DisplayDecimal", "DISPLAYDECIMAL", [.num value.toInt, .bool leadingZero, .u8 length, .u8 position]⟩
  | .displayDecimalWDot value dotMask leadingZero length position =>
    ⟨"DisplayDecimalwDot", "DISPLAYDECIMALWDOT",
      [.num value.toInt, .u8 dotMask, .bool leadingZero, .u8 length, .u8 position]⟩
  | .displayString text dotMask length position =>
    ⟨"DisplayString", "DISPLAYSTRING", [.text text, .u8 dotMask, .u8 length, .u8 position]⟩
  | .wireCmdData => ⟨"WIRE_CMD_DATA", "WIRE_CMD_DATA", []⟩
  | .wireCmdAddr pos => ⟨"WIRE_CMD_ADDR", "WIRE_CMD_ADDR", [.num pos.toNat]⟩
  | .wireCmdDisp on level => ⟨"WIRE_CMD_DISP", "WIRE_CMD_DISP", [.bool on, .num level.toNat]⟩
  | .wireSegment dp g f e d c b a => ⟨"WIRE_SEGMENT", "WIRE_SEGMENT", [.code (segmentByte dp g f e d c b a)]⟩

/-- The source's call syntax, `name(arg, arg, ...)` (R83). -/
def Instr.text (i : Instr) : String :=
  i.call.name ++ "(" ++ String.intercalate ", " (i.call.args.map (Arg.write ", ")) ++ ")"

/-- The assembler-style equivalent: the mnemonic and the arguments separated by commas (R83). -/
def Instr.assembler (i : Instr) : String :=
  match i.call.args with
  | [] => i.call.mnemonic
  | args => i.call.mnemonic ++ " " ++ String.intercalate ", " (args.map (Arg.write ","))

end Sys2Proof
end

