-- ==== Sys2Proof/Tests/Slice0.lean ====
section
/-! SUPPORT. The model's own tests. Expected values come from spec/95_test_vectors.md (each test names its vector) or are
worked out by hand from the rule named. Below them, the witnesses of the statements' hypotheses. -/

open Sys2Proof.Claims

namespace Sys2Proof.Machine.Tests

/-! ### States -/

/-- Phase IDLE with every coming acknowledgement given: the levels of the list, then low. -/
def idle (levels : List Level := []) : State :=
  { State.reset with phase := .idle, clk := ⟨.output, .high⟩, dio := ⟨.output, .high⟩,
                     samples := levels ++ List.replicate 20 .low }

/-- Right after START. -/
def started : State := { idle with phase := .started, dio := ⟨.output, .low⟩, rx := ⟨some [], .unknown⟩ }

/-- In a frame whose one byte so far is `cmd`, acknowledged. -/
def afterByte (cmd : Byte) : State :=
  { idle with phase := .writing, clk := ⟨.output, .low⟩, dio := ⟨.input, .low⟩, rx := ⟨some [(cmd, true)], .unknown⟩ }

/-- Phase CLOSED. -/
def closed : State := { idle with phase := .closed, clk := ⟨.input, .high⟩, dio := ⟨.input, .high⟩ }

/-- A fault is recorded. -/
def faulted : State := { State.reset with fault := some ⟨.notOpen, 0x01⟩ }

/-- The next state of an outcome, if it is one. -/
def nextOf : Result → Option State
  | .next t => some t
  | .fault _ => none
  | .refused _ => none

/-- The reply of an instruction on a state. -/
def replyOf (i : Instr) (s : State) : Option Reply := (nextOf (exec i s)).bind lastReply

/-- The bytes of the frames on the wire after an instruction. -/
def framesOf (i : Instr) (s : State) : Option (List (List Byte)) :=
  (nextOf (exec i s)).bind fun t => (framesOfTrace t.cfg t.trace).map (·.map (·.map (·.1)))

/-- How a run of records from a state ends. -/
def runRecords (records : List (List Byte)) (s : State) : Option State :=
  nextOf (core.run records.length { s with requests := records.map .record })

/-! ### Well-formedness: each check refuses an ill-formed term (30_encoding.md R71) -/

theorem test_wf_encodeString : (Instr.encodeString (List.replicate 256 0) 0 4 0).wellFormed = false := by decide +kernel
theorem test_wf_setSegments : (Instr.setSegments (List.replicate 256 0) 4 0).wellFormed = false := by decide +kernel
theorem test_wf_displayString : (Instr.displayString (List.replicate 256 0) 0 4 0).wellFormed = false := by decide +kernel
theorem test_wf_longest : (Instr.displayString (List.replicate 255 0) 0 4 0).wellFormed = true := by decide +kernel

/-! ### Decoding: words written out from 30_encoding.md R71 and R73 (vectors V-E1 to V-E14) -/

theorem test_decode_start : decodeRecord [0x01] = .ok .start := by decide
theorem test_decode_stop : decodeRecord [0x02] = .ok .stop := by decide
theorem test_decode_bitDelay : decodeRecord [0x03] = .ok .bitDelay := by decide
theorem test_decode_writeByte : decodeRecord [0x04, 0x06] = .ok (.writeByte 0x06) := by decide
theorem test_decode_encData : decodeRecord [0x08] = .ok .encData := by decide
theorem test_decode_encAddr : decodeRecord [0x09, 0x03] = .ok (.encAddr 3) := by decide
theorem test_decode_encDisp : decodeRecord [0x0A, 0x07, 0x01] = .ok (.encDisp 7 true) := by decide
theorem test_decode_encodeCharacter : decodeRecord [0x10, 0x31] = .ok (.encodeCharacter 0x31) := by decide
theorem test_decode_encodeDecimal :
    decodeRecord [0x18, 0xE9, 0xFF, 0xFF, 0xFF, 0x00, 0x04] = .ok (.encodeDecimal (-23) false 4) := by decide
theorem test_decode_encodeDecimalWithDot :
    decodeRecord [0x19, 0xD2, 0x04, 0x00, 0x00, 0x02, 0x00, 0x04] = .ok (.encodeDecimalWithDot 1234 2 false 4) := by decide
theorem test_decode_encodeString :
    decodeRecord [0x1A, 0x04, 0x4F, 0x50, 0x45, 0x4E, 0x00, 0x04, 0x00] =
      .ok (.encodeString [0x4F, 0x50, 0x45, 0x4E] 0 4 0) := by decide
theorem test_decode_displayBegin : decodeRecord [0x20] = .ok .displayBegin := by decide
theorem test_decode_displayClose : decodeRecord [0x21] = .ok .displayClose := by decide
theorem test_decode_displayClear : decodeRecord [0x22] = .ok .displayClear := by decide
theorem test_decode_setBrightness : decodeRecord [0x23, 0x07, 0x01] = .ok (.setBrightness 7 true) := by decide
theorem test_decode_setSegments :
    decodeRecord [0x24, 0x02, 0x3F, 0x06, 0x02, 0x01] = .ok (.setSegments [0x3F, 0x06] 2 1) := by decide
theorem test_decode_displayDecimal :
    decodeRecord [0x28, 0x2A, 0x00, 0x00, 0x00, 0x00, 0x04, 0x00] = .ok (.displayDecimal 42 false 4 0) := by decide
theorem test_decode_displayDecimalWDot :
    decodeRecord [0x29, 0xD2, 0x04, 0x00, 0x00, 0x02, 0x00, 0x04, 0x00] =
      .ok (.displayDecimalWDot 1234 2 false 4 0) := by decide
theorem test_decode_displayString :
    decodeRecord [0x2A, 0x04, 0x48, 0x45, 0x4C, 0x50, 0x01, 0x04, 0x00] =
      .ok (.displayString [0x48, 0x45, 0x4C, 0x50] 1 4 0) := by decide

theorem test_refuse_reserved : decodeRecord [0x05] = .error (.reservedOperationId 0x05) := by decide
theorem test_refuse_early : decodeRecord [0x04] = .error .endsEarly := by decide
theorem test_refuse_bool : decodeRecord [0x23, 0x07, 0x02] = .error (.malformedBool 0x02) := by decide
theorem test_refuse_left_over : decodeRecord [0x21, 0x00] = .error .bytesLeftOver := by decide
theorem test_refuse_empty : decodeRecord [] = .error .endsEarly := by decide

/-! Wire bytes, written out from R77 to R82 with the default parameters. -/

theorem test_decode_wireCmdData : decodeWire defaultConfig .command 0x40 = .ok .wireCmdData := by decide
theorem test_decode_wireCmdAddr : decodeWire defaultConfig .command 0xC5 = .ok (.wireCmdAddr 5) := by decide
theorem test_decode_wireCmdDisp : decodeWire defaultConfig .command 0x8A = .ok (.wireCmdDisp true 2) := by decide
/-- R79: 0x86 is dp/colon, c and b; the place and not the value tells a segment byte (R81). -/
theorem test_decode_wireSegment :
    decodeWire defaultConfig .segment 0x86 = .ok (.wireSegment true false false false false true true false) := by decide
theorem test_wire_no_meaning :
    decodeWire defaultConfig .command 0x00 = .error (.notACommand 0x00) ∧
      decodeWire defaultConfig .noMeaning 0x06 = .error .noMeaning ∧
      decodeWire defaultConfig .outside 0x06 = .error .outsideFrame := by decide

/-! The opcode table's words, and that the next step runs them. The first byte is bits 7..0. -/

theorem test_table_setBrightness : decodeTableWord 24 0x010723 = some (.setBrightness 7 true) := by decide
theorem test_table_short_word : decodeTableWord 8 0x28 = some (.displayDecimal 0 false 0 0) := by decide
theorem test_table_wire : decodeTableWord 8 0xC3 = some (.wireCmdAddr 3) ∧
    decodeTableWord 8 0xFF = some (.wireSegment true true true true true true true true) := by decide
/-- A record of the table raises NOT_OPEN from reset, or runs. -/
theorem test_fetch_operation :
    ((nextOf (step (State.reset.withFetchWord 8 0x20))).map (·.phase)) = some .idle ∧
      ((nextOf (step (State.reset.withFetchWord 24 0x010723))).bind (·.fault)) = some ⟨.notOpen, 0x23⟩ := by decide
theorem test_fetch_wire :
    ((nextOf (step ({ State.reset with samples := [.low] }.withFetchWord 8 0x40))).map (·.rx.frame)) =
      some (some [(0x40, true)]) := by decide

/-! ### The protocol primitives (vectors V-P1 to V-P15) -/

theorem test_start :
    (nextOf (exec .start idle)).map (fun t => (t.phase, t.clk, t.dio, t.trace)) =
      some (.started, ⟨.output, .high⟩, ⟨.output, .low⟩, [.dioSet .low, .delay 75]) := by decide
theorem test_start_framing : (nextOf (exec .start started)).bind (·.fault) = some ⟨.framing, 0x01⟩ := by decide
theorem test_stop :
    (nextOf (exec .stop (afterByte 0x40))).map (fun t => (t.phase, t.trace)) =
      some (.idle, [.dioSet .low, .delay 75, .clkSet .high, .delay 75, .dioSet .high, .delay 75]) := by decide
theorem test_stop_idle : (nextOf (exec .stop idle)).bind (·.fault) = some ⟨.framing, 0x02⟩ := by decide
theorem test_bitDelay :
    (nextOf (exec .bitDelay State.reset)).map (fun t => (t.phase, t.trace, t.fault)) =
      some (.uninit, [.delay 75], none) := by decide
/-- V-P5 and E7: 0x06 goes out 0,1,1,0,0,0,0,0. -/
theorem test_writeByte :
    (nextOf (exec (.writeByte 0x06) started)).map (fun t => (t.phase, t.lastAck, t.trace.filterMap fun
      | .dioSet v => some v
      | .clkSet _ | .dioRelease | .clkRelease | .dioSample _ | .delay _ => none)) =
      some (.writing, some true, [.low, .high, .high, .low, .low, .low, .low, .low]) := by decide
/-- V-P6: an unacknowledged byte moves the phase all the same. -/
theorem test_writeByte_unacknowledged :
    (nextOf (exec (.writeByte 0x06) { started with samples := [.high] })).map (fun t => (t.phase, t.lastAck)) =
      some (.writing, some false) := by decide
/-- V-P16: the wire trace and the frame. -/
theorem test_wire_trace :
    (runRecords [[0x20], [0x01], [0x04, 0x06], [0x02]] { State.reset with samples := [.low] }).map (fun t =>
        wireTrace t.trace) =
      some ([(.high, .low), (.low, .low), (.high, .low), (.low, .low), (.low, .high), (.high, .high), (.low, .high),
        (.high, .high), (.low, .high), (.low, .low), (.high, .low), (.low, .low), (.high, .low), (.low, .low),
        (.high, .low), (.low, .low), (.high, .low), (.low, .low), (.high, .low), (.low, .low), (.low, .high),
        (.high, .low), (.low, .high), (.low, .low), (.high, .low), (.high, .high)]) := by decide +kernel
theorem test_wire_frame :
    (runRecords [[0x20], [0x01], [0x04, 0x06], [0x02]] { State.reset with samples := [.low] }).map (fun t =>
        (symbolsOfTrace t.cfg t.trace, framesOfTrace t.cfg t.trace)) =
      some (some [.start, .bit .low, .bit .high, .bit .high, .bit .low, .bit .low, .bit .low, .bit .low, .bit .low,
        .ack .low, .stop], some [[(0x06, true)]]) := by decide +kernel
/-- R235, R240: with too short a delay, and with none, nothing is claimed of the frames and the view is unknown. -/
theorem test_short_delay_claims_nothing :
    framesOfTrace { defaultConfig with bitDelayUs := 74 } [] = none ∧
      framesOfTrace { defaultConfig with bitDelayUs := 0, rxMinHalfBitUs := 0 } [] = none ∧
      View.complete { defaultConfig with bitDelayUs := 74 } [(0x40, true)] ⟨some .autoIncrement, [(0, 0x3F)], none, none⟩ =
        View.unknown := by decide

/-! ### Commands and glyphs (vectors V-C2 to V-C10, V-G1 to V-G12) -/

theorem test_encData : replyOf .encData State.reset = some (.ok (.byte 0x40)) := by decide
theorem test_encAddr : replyOf (.encAddr 5) idle = some (.ok (.byte 0xC5)) := by decide
theorem test_encDisp : replyOf (.encDisp 9 true) idle = some (.ok (.byte 0x89)) := by decide
theorem test_encDisp_off : replyOf (.encDisp 8 false) idle = some (.ok (.byte 0x80)) := by decide
theorem test_encodeCharacter : replyOf (.encodeCharacter 0x31) State.reset = some (.ok (.byte 0x06)) ∧
    replyOf (.encodeCharacter 0x2D) idle = some (.ok (.byte 0x40)) := by decide
theorem test_encodeCharacter_edges : replyOf (.encodeCharacter 0x1F) idle = some (.ok (.byte 0x00)) ∧
    replyOf (.encodeCharacter 0x7F) idle = some (.ok (.byte 0x00)) ∧
    replyOf (.encodeCharacter 0x80) idle = some (.ok (.byte 0x00)) := by decide
/-- R79: 0x06 lights segments b and c, upper and lower right. -/
theorem test_segments : isLit 0x06 .b ∧ isLit 0x06 .c ∧ isLit 0x06 .a = false ∧ isLit 0x86 .dp := by decide

/-! ### The formatter (vectors V-F9, V-F4, V-F18, V-F17, V-F21, V-F25) -/

theorem test_encodeDecimal_min : replyOf (.encodeDecimal (-2147483648) true 11) idle =
    some (.ok (.bytes [0x40, 0x5B, 0x06, 0x66, 0x07, 0x66, 0x7F, 0x4F, 0x7D, 0x66, 0x7F])) := by decide
theorem test_encodeDecimal_truncated : replyOf (.encodeDecimal 12345 false 4) idle =
    some (.ok (.bytes [0x5B, 0x4F, 0x66, 0x6D])) := by decide
theorem test_encodeDecimalWithDot : replyOf (.encodeDecimalWithDot 12 0xFF false 4) idle =
    some (.ok (.bytes [0x80, 0x80, 0x86, 0xDB])) := by decide
theorem test_encodeDecimalWithDot_one : replyOf (.encodeDecimalWithDot 1234 0x02 false 4) idle =
    some (.ok (.bytes [0x06, 0xDB, 0x4F, 0x66])) := by decide
theorem test_encodeString : replyOf (.encodeString [0x48, 0x45, 0x4C, 0x50] 0x01 4 2) idle =
    some (.ok (.placed [0xF6, 0x79, 0x38, 0x73] 2)) := by decide
theorem test_encodeString_ends : replyOf (.encodeString [0x4F, 0x00, 0x50] 0 3 0) idle =
    some (.ok (.placed [0x3F, 0x00, 0x00] 0)) := by decide

/-! ### The Controller (vectors V-K1 to V-K28) -/

theorem test_displayBegin : (nextOf (exec .displayBegin State.reset)).map (fun t => (t.phase, t.trace)) =
    some (.idle, [.clkSet .high, .dioSet .high]) := by decide
theorem test_displayBegin_framing : (nextOf (exec .displayBegin started)).bind (·.fault) = some ⟨.framing, 0x20⟩ := by
  decide
theorem test_displayClose : (nextOf (exec .displayClose idle)).map (fun t => (t.phase, t.clk, t.trace)) =
    some (.closed, ⟨.input, .high⟩, [.dioRelease, .clkRelease]) := by decide
theorem test_displayClear : framesOf .displayClear idle = some [[0x40], [0xC0, 0, 0, 0, 0]] := by decide +kernel
theorem test_setBrightness : framesOf (.setBrightness 9 true) idle = some [[0x89]] ∧
    (nextOf (exec (.setBrightness 9 true) idle)).bind (·.bright) = some ⟨1, true⟩ := by decide +kernel
theorem test_setBrightness_closed : (nextOf (exec (.setBrightness 7 true) closed)).bind (·.fault) =
    some ⟨.notOpen, 0x23⟩ := by decide
/-- V-K12: the address byte is not acknowledged. The frame is sent whole, and positions 1 and 2 become unknown. -/
theorem test_setSegments_unacknowledged :
    (nextOf (exec (.setSegments [0x3F, 0x06] 2 1) (idle [.low, .high, .low, .low]))).map (fun t =>
        (t.lastAck, lastReply t, t.rx.view.disp.read 1)) =
      some (some true, some (.ok (.acks [true, false, true, true])), none) := by decide
/-- V-K6 to V-K8: the bytes go to positions 1 and 2; one past either bound is rejected. -/
theorem test_setSegments : framesOf (.setSegments [0x3F, 0x06] 2 1) idle = some [[0x40], [0xC1, 0x3F, 0x06]] ∧
    (nextOf (exec (.setSegments [0x3F, 0x06] 2 1) idle)).map (·.rx.view.disp) = some [(1, 0x3F), (2, 0x06)] ∧
    replyOf (.setSegments [0x3F, 0x06] 2 3) idle = some .errRange ∧
    replyOf (.setSegments [0x3F] 1 4) idle = some .errRange := by decide +kernel
theorem test_displayDecimal : framesOf (.displayDecimal (-5) true 2 2) idle = some [[0x40], [0xC2, 0x40, 0x6D]] := by
  decide +kernel
theorem test_displayDecimalWDot : framesOf (.displayDecimalWDot 1234 0x02 false 4 0) idle =
    some [[0x40], [0xC0, 0x06, 0xDB, 0x4F, 0x66]] := by decide +kernel
theorem test_displayString : framesOf (.displayString [0x4C, 0x4F, 0x4E, 0x47, 0x54, 0x45, 0x58, 0x54] 0 2 2) idle =
    some [[0x40], [0xC2, 0x38, 0x3F]] := by decide +kernel
/-- 30_encoding.md R83's example of a call, and its assembler-style equivalent. -/
theorem test_text : (Instr.setSegments [0x3F, 0x06] 2 0).text = "setSegments([0x3F, 0x06], 2, 0)" ∧
    (Instr.setSegments [0x3F, 0x06] 2 0).assembler = "SETSEGMENTS [0x3F,0x06], 2, 0" := by decide +kernel

/-! ### Wire byte kinds -/

theorem test_wireCmdData : (nextOf (exec .wireCmdData started)).map (·.rx.frame) = some (some [(0x40, true)]) := by decide
theorem test_wireCmdAddr : (nextOf (exec (.wireCmdAddr 3) started)).map (·.rx.frame) = some (some [(0xC3, true)]) := by
  decide
theorem test_wireCmdDisp : (nextOf (exec (.wireCmdDisp true 7) started)).map (·.rx.frame) =
    some (some [(0x8F, true)]) := by decide
theorem test_wireSegment :
    (nextOf (exec (.wireSegment false false false false false true true false) (afterByte 0xC0))).map (·.rx.frame) =
      some (some [(0xC0, true), (0x06, true)]) := by decide


/-! ### Witnesses: concrete states and operands that meet the hypotheses of each statement -/

/-- An instruction's outcome that a Bool says is a next state with a property. -/
theorem next_of {r : Result} (P : State → Prop) [DecidablePred P] (h : ((nextOf r).any fun t => decide (P t)) = true) :
    ∃ t, r = .next t ∧ P t := by
  cases r with
  | next t => exact ⟨t, rfl, by simpa [nextOf] using h⟩
  | fault f => simp [nextOf] at h
  | refused f => simp [nextOf] at h

/-- An instruction's outcome that a Bool says is a next state. -/
theorem is_next {r : Result} (h : (nextOf r).isSome = true) : ∃ t, r = .next t := by
  cases r with
  | next t => exact ⟨t, rfl⟩
  | fault f => simp [nextOf] at h
  | refused f => simp [nextOf] at h

/-- The receiver shows a byte at position 1 and at the last position, in write mode. -/
def shown : State :=
  { idle with rx := { frame := none, view := { View.unknown with mode := some .autoIncrement, disp := [(1, 0x3F), (3, 0x06)] } } }

/-- One record is issued. -/
def issuing (record : List Byte) (s : State) : State := { s with requests := [.record record] }

/-- The same block with closed lines that was never opened. -/
def fresh : State := { State.reset with samples := List.replicate 20 .low }

theorem witness_PhaseTransitionsAreTheTable :
    (∃ t, exec .displayBegin State.reset = .next t ∧ t.fault = none) ∧
      (∃ t, exec .start State.reset = .next t ∧ t.fault ≠ none) ∧
      (∃ t, exec .stop started = .next t ∧ t.fault = none) ∧
      (Instr.start.isOperation = true ∧ State.reset.fault = none ∧ ∀ q, ¬Transition State.reset.phase .start q) ∧
      (Instr.displayBegin.isOperation = true ∧ started.fault = none ∧ ∀ q, ¬Transition started.phase .displayBegin q) :=
  ⟨next_of (fun t => t.fault = none) (by decide), next_of (fun t => t.fault ≠ none) (by decide),
    next_of (fun t => t.fault = none) (by decide),
    ⟨rfl, rfl, fun q h => by simp [Transition, State.reset, State.ofConfig] at h⟩,
    ⟨rfl, rfl, fun q h => by simp [Transition, started] at h⟩⟩

theorem witness_ConfigurationConstantTraceAppendOnly : ∃ t, step (issuing [0x20] State.reset) = .next t :=
  is_next (by decide)

theorem witness_BrightnessWrittenOnlyBySetBrightness :
    (∃ t, exec .displayBegin { State.reset with bright := some ⟨7, true⟩ } = .next t) ∧
      isSetBrightness .displayBegin = false := ⟨is_next (by decide), rfl⟩

theorem witness_LastAckIsTheLastSample :
    (∃ t, exec .start idle = .next t ∧ t.trace = idle.trace ++ startActions 75) ∧ sendsBytes .start = false ∧
      (startActions 75).filterMap sampleOf = [] ∧
      (∃ t, exec (.writeByte 0x06) started = .next t ∧ t.trace = started.trace ++ byteActions 75 0x06 .low) ∧
      ((byteActions 75 0x06 .low).filterMap sampleOf).getLast? = some .low :=
  ⟨next_of (fun t => t.trace = idle.trace ++ startActions 75) (by decide), rfl, rfl,
    next_of (fun t => t.trace = started.trace ++ byteActions 75 0x06 .low) (by decide), rfl⟩

theorem witness_SamplesAreDrawnInOrder :
    ∃ t, exec (.setSegments [0x3F, 0x06] 2 1) (idle [.low, .high, .low, .low]) = .next t := is_next (by decide)

theorem witness_StepKeepsDisplayInRange :
    shown.DisplayInRange ∧ ∃ t, step (issuing [0x24, 0x01, 0x7F, 0x01, 0x03] shown) = .next t :=
  ⟨by unfold State.DisplayInRange; decide, is_next (by decide)⟩

theorem witness_RepeatedSetSegmentsIsIdempotent :
    shown.fault = none ∧ shown.phase = .idle ∧ shown.DisplayInRange ∧
      ((3 : Byte).toNat < shown.cfg.digits ∧ (1 : Byte).toNat ≤ shown.cfg.digits - (3 : Byte).toNat ∧ (1 : Byte).toNat ≤ [0x7F].length ∧
        ∀ k, k < 2 * ((1 : Byte).toNat + 2) → shown.sampleAt k = .low) ∧
      ((0 : Byte).toNat < shown.cfg.digits ∧ (4 : Byte).toNat ≤ shown.cfg.digits - (0 : Byte).toNat ∧
        (4 : Byte).toNat ≤ [0x7F, 1, 2, 3].length ∧ ∀ k, k < 2 * ((4 : Byte).toNat + 2) → shown.sampleAt k = .low) :=
  ⟨rfl, rfl, by unfold State.DisplayInRange; decide, ⟨by decide, by decide, by decide, by decide⟩,
    by decide, by decide, by decide, by decide⟩

theorem witness_RecordDecodeEncodeAgree :
    (Instr.encodeDecimal (-1) true 255).WellFormed ∧ (Instr.encodeDecimal (-1) true 255).isOperation = true ∧
      (Instr.setSegments [] 0 0).WellFormed ∧ (Instr.displayString (List.replicate 255 0x41) 0xFF 255 255).WellFormed :=
  ⟨rfl, rfl, rfl, by decide +kernel⟩

theorem witness_WireByteDecodeEncodeAgree :
    defaultConfig.Legal ∧ defaultConfig.familiesDistinct = true ∧ (Instr.wireCmdDisp true 7).isOperation = false ∧
      (Instr.wireCmdAddr 7).isOperation = false ∧ Instr.wireCmdData.isOperation = false := by decide

theorem witness_ReservedIdsRefused :
    (∀ op ∈ [0x00, 0x05, 0x07, 0x0B, 0x0F, 0x11, 0x17, 0x1B, 0x1F, 0x25, 0x27, 0x2B, (0xFF : Byte)], reservedId op) ∧
      (issuing [0x05] idle).fault = none ∧ (issuing [0x05] idle).requests = .record (0x05 :: []) :: [] :=
  ⟨by unfold reservedId; decide, rfl, rfl⟩

theorem witness_MalformedRecordsRefused :
    (Instr.encDisp 7 true).WellFormed ∧ (Instr.encDisp 7 true).isOperation = true ∧
      2 < (encode defaultConfig (.encDisp 7 true)).length ∧ 0 < (encode defaultConfig .start).length ∧
      2 ≤ (2 : Byte).toNat ∧ 2 ≤ (0xFF : Byte).toNat := by decide

theorem witness_StepRunsTheDecodedInstruction :
    (issuing [0x01] idle).fault = none ∧ (issuing [0x01] idle).requests = [.record [0x01]] ∧
      decodeRecord [0x01] = .ok .start ∧ decodeRequest (issuing [0x01] idle) (.record [0x01]) = .ok .start ∧
      decodeRequest started (.wire 0x40) = .ok .wireCmdData ∧ idle.requests = [] := by decide

theorem witness_CompositesEqualTheirExpansions :
    idle.fault = none ∧ idle.phase = .idle ∧ idle.cfg.digits ≤ 255 ∧
      ((3 : Byte).toNat < idle.cfg.digits ∧ (0 : Byte).toNat ≤ idle.cfg.digits - (3 : Byte).toNat ∧ (0 : Byte).toNat ≤ 0) ∧
      ((0 : Byte).toNat < idle.cfg.digits ∧ (4 : Byte).toNat ≤ idle.cfg.digits - (0 : Byte).toNat ∧ (4 : Byte).toNat ≤ 5) := by
  decide

theorem witness_StartCondition :
    idle.fault = none ∧ idle.phase = .idle ∧ (fresh.fault = none ∧ NotOpen fresh) ∧
      (closed.fault = none ∧ NotOpen closed) ∧ (started.fault = none ∧ InTransaction started) ∧
      (afterByte 0x40).fault = none ∧ InTransaction (afterByte 0x40) :=
  ⟨rfl, rfl, ⟨rfl, .inl rfl⟩, ⟨rfl, .inr rfl⟩, ⟨rfl, .inl rfl⟩, rfl, .inr rfl⟩

theorem witness_StopCondition :
    (started.fault = none ∧ InTransaction started) ∧ ((afterByte 0x40).fault = none ∧ InTransaction (afterByte 0x40)) ∧
      NotOpen fresh ∧ idle.phase = .idle := ⟨⟨rfl, .inl rfl⟩, ⟨rfl, .inr rfl⟩, .inl rfl, rfl⟩

theorem witness_BitDelayAppendsOneDelay :
    fresh.fault = none ∧ started.fault = none ∧ faulted.fault = some ⟨.notOpen, 0x01⟩ := ⟨rfl, rfl, rfl⟩

theorem witness_WriteByteSendsOneByte :
    (started.fault = none ∧ InTransaction started) ∧ InTransaction (afterByte 0x40) ∧ NotOpen closed ∧ idle.phase = .idle :=
  ⟨⟨rfl, .inl rfl⟩, .inr rfl, .inr rfl, rfl⟩

theorem witness_FailedAckChangesOnlyTheResult : started.fault = none ∧ InTransaction started := ⟨rfl, .inl rfl⟩

/-- 0x3F is no command byte of the default configuration. -/
theorem no_command_3F : NoCommand defaultConfig 0x3F := by
  refine ⟨by decide, by decide, ?_⟩
  decide

theorem witness_FrameEffectOnReceiverView :
    defaultConfig.Legal ∧ defaultConfig.familiesDistinct = true ∧ defaultConfig.slowEnough = true ∧
      (3 : BitVec 3).toNat < defaultConfig.digits ∧
      (3 : BitVec 3).toNat + [((0x3F : Byte), true)].length ≤ defaultConfig.digits ∧
      (0 : BitVec 3).toNat + ([] : List (Byte × Bool)).length ≤ defaultConfig.digits ∧
      shown.rx.view.mode = some .autoIncrement := by decide

theorem witness_FramesWithoutMeaningLeaveTheViewUnknown :
    defaultConfig.Legal ∧ defaultConfig.familiesDistinct = true ∧ defaultConfig.digits ≤ (4 : BitVec 3).toNat ∧
      defaultConfig.digits < (3 : BitVec 3).toNat + [((0x3F : Byte), true), (0x06, true)].length ∧
      NoCommand defaultConfig 0x3F ∧
      (0x8F : Byte) = defaultConfig.cmdDispBase ||| (if true then defaultConfig.dispOnBit else 0) ||| (7 : BitVec 3).setWidth 8 ∧
      { defaultConfig with bitDelayUs := 74 }.bitDelayUs < defaultConfig.rxMinHalfBitUs ∧
      { defaultConfig with bitDelayUs := 0 }.bitDelayUs = 0 ∧
      0 < defaultConfig.bitDelayUs ∧ defaultConfig.rxMinHalfBitUs ≤ defaultConfig.bitDelayUs := by
  refine ⟨by decide, by decide, by decide, by decide, no_command_3F, by decide, by decide, rfl, by decide, by decide⟩

theorem witness_CommandEncoderBytes : fresh.fault = none ∧ idle.fault = none ∧ closed.fault = none := ⟨rfl, rfl, rfl⟩

theorem witness_EncodeCharacterReadsTheTable : fresh.fault = none ∧ glyph fresh.cfg 0x1F = some 0x00 ∧
    glyph fresh.cfg 0x20 = some 0x00 ∧ glyph fresh.cfg 0x7F = some 0x00 ∧ glyph fresh.cfg 0x80 = some 0x00 := by decide

theorem witness_FixedGlyphs : idle.fault = none ∧ idle.cfg.Legal := by decide

theorem witness_DecimalDigitsAreExact :
    (decimalDigits 0).head? = some 0x30 ∧ decimalValue (decimalDigits (-2147483648)) = 2147483648 ∧
      0x37 ∈ decimalDigits 7 := by decide

theorem witness_EncodeDecimalSlots :
    idle.fault = none ∧ decimalSlot (-23) true 4 0 = some 0x2D ∧ decimalSlot (-23) true 4 1 = some 0x30 ∧
      decimalSlot (-23) false 4 1 = some 0x2D ∧ decimalSlot 12345 false 4 0 = some 0x32 ∧
      decimalSlot 7 true 1 0 = some 0x37 := by decide

theorem witness_EncodeDecimalWithDotSlots : idle.fault = none ∧ dotted 0x80 7 0x06 = 0x86 ∧ dotted 0x80 6 0x06 = 0x06 := by
  decide

theorem witness_EncodeStringSlots :
    idle.fault = none ∧ textSlot [0x4F, 0x00, 0x50] 0 = some 0x4F ∧ textSlot [0x4F, 0x00, 0x50] 2 = none ∧
      textSlot [] 0 = none := by decide

theorem witness_FormatterDependsOnlyOnGlyph :
    fresh.fault = none ∧ shown.fault = none ∧ fresh.cfg.glyph = shown.cfg.glyph := ⟨rfl, rfl, rfl⟩

theorem witness_DisplayBeginOpensTheBus :
    (fresh.fault = none ∧ ¬InTransaction fresh) ∧ ¬InTransaction closed ∧ ¬InTransaction idle ∧ InTransaction started :=
  ⟨⟨rfl, by simp [InTransaction, fresh, State.reset, State.ofConfig]⟩, by simp [InTransaction, closed],
    by simp [InTransaction, idle], .inl rfl⟩

theorem witness_DisplayCloseReleasesTheBus :
    (idle.fault = none ∧ ¬InTransaction idle) ∧ ¬InTransaction fresh ∧ InTransaction (afterByte 0x40) :=
  ⟨⟨rfl, by simp [InTransaction, idle]⟩, by simp [InTransaction, fresh, State.reset, State.ofConfig], .inr rfl⟩

theorem witness_OnlyDisplayBeginOpens :
    (∃ t, exec .bitDelay fresh = .next t) ∧ NotOpen fresh ∧ Instr.bitDelay ≠ .displayBegin ∧
      (∃ t, exec .displayClose closed = .next t) ∧ NotOpen closed :=
  ⟨is_next (by decide), .inl rfl, by decide, is_next (by decide), .inr rfl⟩

theorem witness_SetSegmentsSendsTheBytes :
    (NotOpen fresh ∧ InTransaction started) ∧ idle.fault = none ∧ idle.phase = .idle ∧
      (idle.cfg.digits ≤ (4 : Byte).toNat ∧ idle.cfg.digits - (3 : Byte).toNat < (2 : Byte).toNat) ∧
      ((3 : Byte).toNat < idle.cfg.digits ∧ (1 : Byte).toNat ≤ idle.cfg.digits - (3 : Byte).toNat ∧ (1 : Byte).toNat ≤ 1) ∧
      ((3 : Byte).toNat < idle.cfg.digits ∧ (0 : Byte).toNat ≤ idle.cfg.digits - (3 : Byte).toNat ∧ (0 : Byte).toNat ≤ 0) :=
  ⟨⟨.inl rfl, .inl rfl⟩, by decide⟩

theorem witness_OutOfRangeIsRejected :
    idle.fault = none ∧ idle.phase = .idle ∧
      (rangeOf (.setSegments [0x3F] 1 4) = some (1, 1, 4) ∧ idle.cfg.digits ≤ 4) ∧
      (rangeOf (.setSegments [0x3F, 0x06] 2 3) = some (2, 2, 3) ∧ idle.cfg.digits - 3 < 2) ∧
      (rangeOf (.setSegments [0x3F, 0x06] 3 0) = some (2, 3, 0) ∧ 2 < 3) ∧
      rangeOf (.displayDecimal 5 false 4 1) = some (4, 4, 1) ∧ idle.cfg.digits - 1 < 4 := by decide

theorem witness_DisplayClearBlanksEveryDigit : (NotOpen closed ∧ InTransaction (afterByte 0x40)) ∧ idle.fault = none ∧ idle.phase = .idle ∧ 1 ≤ idle.cfg.digits :=
  ⟨⟨.inr rfl, .inr rfl⟩, by decide⟩

theorem witness_SetBrightnessStoresAndSends :
    (idle.fault = none ∧ idle.phase = .idle) ∧ NotOpen closed ∧ InTransaction started := ⟨⟨rfl, rfl⟩, .inr rfl, .inl rfl⟩

theorem witness_FormattingOperationsCompose :
    (fresh.fault = none ∧ NotOpen fresh ∧ InTransaction started) ∧ idle.fault = none ∧ idle.phase = .idle ∧ (2 : Byte).toNat < idle.cfg.digits ∧
      (2 : Byte).toNat ≤ idle.cfg.digits - (2 : Byte).toNat :=
  ⟨⟨rfl, .inl rfl, .inl rfl⟩, by decide⟩

theorem witness_SetSegmentsShowsTheBytes :
    shown.fault = none ∧ shown.phase = .idle ∧ shown.cfg.Legal ∧ shown.cfg.familiesDistinct = true ∧
      shown.cfg.slowEnough = true ∧ (2 : Byte).toNat < shown.cfg.digits ∧
      (2 : Byte).toNat ≤ shown.cfg.digits - (2 : Byte).toNat ∧ (2 : Byte).toNat ≤ [0x3F, 0x06].length ∧
      ∀ k, k < (2 : Byte).toNat + 2 → shown.sampleAt k = .low := by decide

theorem witness_SetBrightnessLightsTheReceiver :
    idle.fault = none ∧ idle.phase = .idle ∧ idle.cfg.Legal ∧ idle.cfg.familiesDistinct = true ∧
      idle.cfg.slowEnough = true ∧ idle.sampleAt 0 = .low := by decide

theorem witness_ReceiverViewChangesOnlyAtFrameEnds :
    (∃ t, exec (.writeByte 0x40) started = .next t) ∧ transmits (.writeByte 0x40) = false ∧
      Instr.writeByte 0x40 ≠ .stop := ⟨is_next (by decide), rfl, by decide⟩

/-- The frame of an address command with one byte at the last position, to be completed by STOP. -/
def lastPosition : State :=
  { afterByte 0xC3 with rx := { frame := some [(0xC3, true), (0x7F, true)], view := shown.rx.view } }

theorem witness_FramesTouchOnlyTheirPositions :
    shown.cfg.Legal ∧ shown.cfg.familiesDistinct = true ∧ shown.cfg.slowEnough = true ∧
      (∃ t, exec (.setSegments [0x7F] 1 3) shown = .next t) ∧ (∃ t, exec (.setBrightness 7 true) shown = .next t) ∧
      (∃ t, exec .stop lastPosition = .next t) ∧
      lastPosition.rx.frame = some ((lastPosition.cfg.cmdAddrBase ||| (3 : BitVec 3).setWidth 8, true) :: [(0x7F, true)]) ∧
      (3 : BitVec 3).toNat < lastPosition.cfg.digits ∧
      (3 : BitVec 3).toNat + [((0x7F : Byte), true)].length ≤ lastPosition.cfg.digits ∧
      (∃ t, exec .stop (afterByte 0x40) = .next t) ∧
      (afterByte 0x40).rx.frame = some [((afterByte 0x40).cfg.cmdData, true)] :=
  ⟨by decide, by decide, by decide, is_next (by decide), is_next (by decide), is_next (by decide), by decide, by decide,
    by decide, is_next (by decide), by decide⟩

theorem witness_AcksNeverChangeControlFlow : ∃ t, exec (.setBrightness 7 true) idle = .next t := is_next (by decide)

theorem witness_WireByteKindsAreSent :
    (started.fault = none ∧ InTransaction started) ∧ (afterByte 0xC0).fault = none ∧ InTransaction (afterByte 0xC0) :=
  ⟨⟨rfl, .inl rfl⟩, rfl, .inr rfl⟩

theorem witness_WireByteOutsideItsPlace :
    (Instr.wireCmdData.isOperation = false ∧ fresh.fault = none ∧ NotOpen fresh ∧ idle.fault = none ∧ idle.phase = .idle) ∧
      ((started.issue (.wire 0x3F)).requests = .wire 0x3F :: [] ∧ (started.issue (.wire 0x3F)).rx.frame = some [] ∧
        (started.issue (.wire 0x3F)).cfg.Legal ∧ NoCommand (started.issue (.wire 0x3F)).cfg 0x3F) ∧
      (idle.issue (.wire 0x3F)).requests = .wire 0x3F :: [] ∧ (idle.issue (.wire 0x3F)).rx.frame = none ∧
      ((afterByte 0x40).issue (.wire 0x3F)).requests = .wire 0x3F :: [] ∧
      ((afterByte 0x40).issue (.wire 0x3F)).rx.frame = some ((0x40, true) :: []) ∧
      ∀ pos : BitVec 3, (0x40 : Byte) ≠ (afterByte 0x40).cfg.cmdAddrBase ||| pos.setWidth 8 :=
  ⟨⟨rfl, rfl, .inl rfl, rfl, rfl⟩, ⟨by decide, by decide, by decide, no_command_3F⟩, by decide, by decide, by decide,
    by decide, by decide⟩

theorem witness_NotOpenUntilDisplayBegin :
    needsOpenLines (.setSegments [0x3F] 1 9) = true ∧ fresh.fault = none ∧ NotOpen fresh ∧ NotOpen closed :=
  ⟨rfl, rfl, .inl rfl, .inr rfl⟩

theorem witness_FramingOutsideTheStateMachine :
    (started.fault = none ∧ BreaksFraming .displayClear started) ∧ (idle.fault = none ∧ BreaksFraming (.writeByte 6) idle) ∧
      (Instr.start.isOperation = true ∧ ∃ t, exec .start started = .next t ∧ t.fault = some ⟨.framing, 0x01⟩) ∧
      (isPrimitive .displayClear = false ∧ ¬InTransaction fresh ∧ (∃ t, exec .displayClear fresh = .next t ∧ t.fault ≠ none)) :=
  ⟨⟨rfl, .inl ⟨.inr (.inr (.inr rfl)), .inl rfl⟩⟩, ⟨rfl, .inr ⟨.inr ⟨6, rfl⟩, rfl⟩⟩,
    ⟨rfl, next_of (fun t => t.fault = some ⟨.framing, 0x01⟩) (by decide)⟩, rfl, by simp [InTransaction, fresh, State.reset, State.ofConfig],
    next_of (fun t => t.fault ≠ none) (by decide)⟩

theorem witness_FaultRecordNamesTheOperation :
    ∃ t, exec .displayClear fresh = .next t ∧ t.fault = some ⟨.notOpen, 0x22⟩ :=
  next_of (fun t => t.fault = some ⟨.notOpen, 0x22⟩) (by decide)

theorem witness_FaultStopsTheBlock :
    (∃ t, exec .start idle = .next t) ∧ (∃ t, exec .start started = .next t ∧ t.fault = some ⟨.framing, 0x01⟩) ∧
      faulted.fault = some ⟨.notOpen, 0x01⟩ :=
  ⟨is_next (by decide), next_of (fun t => t.fault = some ⟨.framing, 0x01⟩) (by decide), rfl⟩

/-- V-K15 is the first: NOT_OPEN wins over ERR_RANGE. -/
theorem witness_EarlierConditionWins :
    (needsOpenLines .start = true ∧ NotOpen fresh) ∧ (∃ t, exec .bitDelay fresh = .next t) ∧ rangeOf (.setSegments [0x3F] 1 9) = some (1, 1, 9) ∧ (fresh.fault = none ∧ fresh.phase = .uninit) ∧
      (started.fault = none ∧ started.phase ≠ .idle) ∧ (idle.fault = none ∧ idle.phase = .idle ∧ idle.cfg.digits ≤ 9) ∧
      faulted.fault = some ⟨.notOpen, 0x01⟩ :=
  ⟨⟨rfl, .inl rfl⟩, is_next (by decide), by decide⟩

theorem witness_EveryOperationAnswersOnce :
    (∃ t, exec .bitDelay fresh = .next t) ∧ (∃ t, exec .stop fresh = .next t) := ⟨is_next (by decide), is_next (by decide)⟩

theorem default_not_illegal : ¬illegal defaultConfig := by
  rintro (h | h | h | h | h | h | h | h) <;> revert h <;> decide

theorem witness_IllegalConfigurationsRefused :
    illegal { defaultConfig with clkPin := 1 } ∧
      illegal { defaultConfig with digits := 0 } ∧ illegal { defaultConfig with digits := 7 } ∧
      illegal { defaultConfig with cmdAddrBase := 0xC1 } ∧ illegal { defaultConfig with cmdDispBase := 0x84 } ∧
      illegal { defaultConfig with dispOnBit := 0x18 } ∧ illegal { defaultConfig with dispOnBit := 0x01 } ∧
      illegal { defaultConfig with dispOnBit := 0x80 } :=
  ⟨.inl rfl, .inr (.inl (by decide)), .inr (.inr (.inl (by decide))),
    .inr (.inr (.inr (.inl (by decide)))), .inr (.inr (.inr (.inr (.inl (by decide))))),
    .inr (.inr (.inr (.inr (.inr (.inl (by decide)))))), .inr (.inr (.inr (.inr (.inr (.inr (.inl (by decide))))))),
    .inr (.inr (.inr (.inr (.inr (.inr (.inr (by decide)))))))⟩

theorem witness_LegalConfigurationsGiveResetState :
    ¬illegal defaultConfig ∧ defaultConfig.glyphLegal = true := ⟨default_not_illegal, by decide⟩

theorem test_construct : construct defaultConfig = some State.reset ∧
    construct { defaultConfig with digits := 7 } = none ∧ construct { defaultConfig with clkPin := 1 } = none ∧
    construct { defaultConfig with dispOnBit := 0x80 } = none := by decide

theorem witness_ActionAndDelayCounts :
    ∃ t, exec (.setSegments [0x3F, 0x06] 2 1) idle = .next t ∧ (t.fault = none ∧ lastReply t ≠ some .errRange) :=
  next_of (fun t => t.fault = none ∧ lastReply t ≠ some .errRange) (by decide)

theorem witness_EveryOperationIsBounded :
    ({ idle with cfg := { defaultConfig with digits := 6 } } : State).cfg.digits ≤ 6 ∧
      ∃ t, exec .displayClear { idle with cfg := { defaultConfig with digits := 6 } } = .next t :=
  ⟨by decide, is_next (by decide)⟩

theorem witness_StepKeepsLinesFollowingPhase :
    State.reset.LinesFollowPhase ∧ (∃ t, step (issuing [0x20] State.reset) = .next t) ∧ started.LinesFollowPhase ∧
      (afterByte 0x40).LinesFollowPhase ∧ closed.LinesFollowPhase :=
  ⟨⟨rfl, rfl⟩, is_next (by decide), ⟨rfl, rfl⟩, ⟨rfl, rfl⟩, ⟨rfl, rfl⟩⟩

/-- An opened block, in a state a run reaches. -/
def opened : State :=
  { State.reset with phase := .idle, clk := ⟨.output, .high⟩, dio := ⟨.output, .high⟩,
                     trace := [.clkSet .high, .dioSet .high], samples := List.replicate 20 .low }

theorem opened_consistent : opened.Consistent where
  lines := ⟨rfl, rfl⟩
  frame := rfl
  display := ⟨List.Pairwise.nil, fun _ h => nomatch h⟩
  replay := by unfold State.LinesReplay; decide
  wire := ⟨fun w h => by cases h; decide, by decide⟩

theorem witness_StepKeepsConsistent :
    opened.Consistent ∧ ∃ t, step (issuing [0x01] opened) = .next t := ⟨opened_consistent, is_next (by decide)⟩

theorem witness_SetSegmentsFramesOnTheWire :
    opened.Consistent ∧ opened.fault = none ∧ opened.phase = .idle ∧ (3 : Byte).toNat < opened.cfg.digits ∧
      (1 : Byte).toNat ≤ opened.cfg.digits - (3 : Byte).toNat ∧ (1 : Byte).toNat ≤ [0x3F].length ∧
      framesOfTrace opened.cfg opened.trace = some [] :=
  ⟨opened_consistent, rfl, rfl, by decide, by decide, by decide, by decide⟩

end Sys2Proof.Machine.Tests
end

section
/-! The phase transitions (10_state.md R25): every operation either raises a fault under its own id or makes the table's
transition, and without a recorded fault every operation does answer. -/

namespace Sys2Proof.Machine

open Sys2Proof.Claims

/-! ### The rows of the table -/

/-- The row of the transmitting operations: from IDLE to IDLE. -/
theorem transition_iff_of_transmits {i : Instr} {p q : Phase} (hi : transmits i = true) :
    Transition p i q ↔ p = .idle ∧ q = .idle := by
  cases i with
  | setSegments | displayClear | setBrightness | displayDecimal | displayDecimalWDot | displayString => exact Iff.rfl
  | _ => cases hi

/-- The row of the instructions that send one byte in an open frame: to WRITING. -/
theorem transition_iff_of_sendsOne {i : Instr} {p q : Phase} (hi : sendsOne i = true) :
    Transition p i q ↔ (p = .started ∨ p = .writing) ∧ q = .writing := by
  cases i with
  | writeByte | wireCmdData | wireCmdAddr | wireCmdDisp | wireSegment => exact Iff.rfl
  | _ => cases hi

/-- The row of the operations that act on no line: the phase stays. -/
theorem transition_iff_of_actionCount_zero {c : Config} {i : Instr} {p q : Phase} (hi : actionCount c i = 0) :
    Transition p i q ↔ q = p := by
  cases i with
  | encData | encAddr | encDisp | encodeCharacter | encodeDecimal | encodeDecimalWithDot | encodeString =>
    exact Iff.rfl
  | _ => simp [actionCount, segmentsOf, sendsBytes] at hi

/-- Whatever sends segments is a transmitting operation. -/
theorem transmits_of_segmentsOf {c : Config} {i : Instr} {n : Nat} (h : segmentsOf c i = some n) :
    transmits i = true := by
  cases i with
  | setSegments | displayClear | displayDecimal | displayDecimalWDot | displayString => rfl
  | _ => cases h

/-- Outside a frame the phase is one of the three that DISPLAYBEGIN and DISPLAYCLOSE accept. -/
theorem phase_outside_frame {p : Phase} (hs : p ≠ .started) (hw : p ≠ .writing) :
    p = .uninit ∨ p = .closed ∨ p = .idle := by
  cases p <;> simp at hs hw ⊢

/-! ### What an instruction does to the phase -/

/-- An instruction that answers has raised a fault under its own id, or has kept the fault record and made a transition
of the table. -/
theorem Did.raised_or_transition {i : Instr} {s t : State} (h : Did i s t) :
    (∃ code, t = s.raise code (recordedId i)) ∨ t.fault = s.fault ∧ Transition s.phase i t.phase := by
  cases h with
  | raised code => exact .inl ⟨code, rfl⟩
  | answered v _ hn => exact .inr ⟨rfl, (transition_iff_of_actionCount_zero hn).2 rfl⟩
  | rejected hi hp => exact .inr ⟨rfl, (transition_iff_of_transmits hi).2 ⟨hp, hp⟩⟩
  | delayed hi => subst hi; exact .inr ⟨rfl, rfl⟩
  | started hi hp => subst hi; exact .inr ⟨by simp [State.startCondition_eq], hp, by simp [State.startCondition_eq]⟩
  | stopped hi hp => subst hi; exact .inr ⟨by simp [State.stopCondition_eq], hp, by simp [State.stopCondition_eq]⟩
  | sent b hi hp =>
    exact .inr ⟨by simp [State.sendByte_eq], (transition_iff_of_sendsOne hi).2 ⟨hp, by simp [State.sendByte_eq]⟩⟩
  | begun hi hs hw => subst hi; exact .inr ⟨rfl, phase_outside_frame hs hw, rfl⟩
  | closed hi hs hw =>
    subst hi
    obtain hp | hp | hp := phase_outside_frame hs hw <;> exact .inr ⟨rfl, by simp [hp], rfl⟩
  | sentSegments buffer len pos hi hp =>
    refine .inr ⟨by simp [State.sendSegments_eq], ?_⟩
    exact (transition_iff_of_transmits (transmits_of_segmentsOf hi)).2 ⟨hp, by simp [State.sendSegments_eq]⟩
  | sentBrightness level on hi hp =>
    subst hi
    exact .inr ⟨by simp [State.sendBrightness_eq], hp, by simp [State.sendBrightness_eq]⟩

/-- The same of `exec`, with the fault record of the state it answers. -/
theorem exec_raised_or_transition {i : Instr} {s t : State} (h : exec i s = .next t) :
    (∃ code, t = s.raise code (recordedId i)) ∨ t.fault = none ∧ Transition s.phase i t.phase := by
  obtain ⟨hf, hd⟩ := exec_next h
  exact hf ▸ hd.raised_or_transition

/-- A raise as the statements name it (60_exceptions.md R206). -/
theorem raises_of_exec_eq_raise {i : Instr} {s : State} {code : FaultCode} {op : Byte}
    (h : exec i s = .next (s.raise code op)) : Raises i s code :=
  ⟨_, ⟨code, op⟩, h, rfl, rfl, rfl⟩

/-! ### Every instruction answers -/

/-- Without a recorded fault an operation answers if its body does. -/
theorem State.running_answers {s : State} {go : State → Result} (hf : s.fault = none) (hgo : ∃ t, go s = .next t) :
    ∃ t, s.running go = .next t :=
  State.running_of_none hf ▸ hgo

/-- A checked operation answers if its body does. -/
theorem State.check_answers {s : State} {op : Byte} {accepts : Phase → Bool} {go : State → Result}
    (hf : s.fault = none) (hgo : ∃ t, go s = .next t) : ∃ t, s.check op accepts go = .next t := by
  refine State.running_answers hf ?_
  split
  · exact ⟨_, rfl⟩
  · split
    · exact hgo
    · exact ⟨_, rfl⟩

/-- DISPLAYBEGIN or DISPLAYCLOSE answers if its body does. -/
theorem State.checkOutsideFrame_answers {s : State} {op : Byte} {go : State → Result} (hf : s.fault = none)
    (hgo : ∃ t, go s = .next t) : ∃ t, s.checkOutsideFrame op go = .next t := by
  refine State.running_answers hf ?_
  split
  · exact ⟨_, rfl⟩
  · exact hgo

/-- SETSEGMENTS answers, in range or not. -/
theorem State.setSegments_answers {s : State} (op : Byte) (buffer : List Byte) (len : Nat) (pos : Byte)
    (hf : s.fault = none) : ∃ t, s.setSegments op buffer len pos = .next t := by
  refine State.check_answers hf ?_
  split <;> exact ⟨_, rfl⟩

/-- A wire byte answers. -/
theorem State.sendWire_answers {s : State} (b : Byte) (hf : s.fault = none) : ∃ t, s.sendWire b = .next t :=
  State.check_answers hf ⟨_, rfl⟩

/-- Without a recorded fault every instruction answers a next state (44_controller.md R183). -/
theorem exec_answers (i : Instr) {s : State} (hf : s.fault = none) : ∃ t, exec i s = .next t := by
  cases i with
  | start | stop | writeByte | setBrightness =>
    simp only [exec_start, exec_stop, exec_writeByte, exec_setBrightness]
    exact State.check_answers hf ⟨_, rfl⟩
  | displayBegin | displayClose =>
    simp only [exec_displayBegin, exec_displayClose]
    exact State.checkOutsideFrame_answers hf ⟨_, rfl⟩
  | setSegments | displayClear | displayDecimal | displayDecimalWDot | displayString =>
    exact State.setSegments_answers _ _ _ _ hf
  | wireCmdData | wireCmdAddr | wireCmdDisp | wireSegment => exact State.sendWire_answers _ hf
  | bitDelay | encData | encAddr | encDisp | encodeCharacter | encodeDecimal | encodeDecimalWithDot
  | encodeString =>
    simp only [exec_bitDelay, exec_encData, exec_encAddr, exec_encDisp, exec_encodeCharacter, exec_encodeDecimal,
      exec_encodeDecimalWithDot, exec_encodeString]
    exact State.running_answers hf ⟨_, rfl⟩

/-- Where the table has no transition, the instruction raises NOT_OPEN or FRAMING. -/
theorem raises_of_no_transition {i : Instr} {s : State} (hf : s.fault = none)
    (hn : ∀ q, ¬Transition s.phase i q) : Raises i s .notOpen ∨ Raises i s .framing := by
  obtain ⟨t, h⟩ := exec_answers i hf
  obtain ⟨code, rfl⟩ | ⟨-, ht⟩ := exec_raised_or_transition h
  · cases code with
    | notOpen => exact .inl (raises_of_exec_eq_raise h)
    | framing => exact .inr (raises_of_exec_eq_raise h)
  · exact absurd ht (hn _)

/-- Settles O2: an instruction that answers has raised or made the table's transition; and one always answers. -/
theorem phaseTransitionsAreTheTable : Obligations.PhaseTransitionsAreTheTable := by
  unfold Obligations.PhaseTransitionsAreTheTable
  refine ⟨fun i s t _ h hf => ?_, fun i s t _ h hf => ?_, fun i s _ => raises_of_no_transition⟩
  · obtain ⟨code, rfl⟩ | ⟨-, ht⟩ := exec_raised_or_transition h
    · cases hf
    · exact ht
  · obtain ⟨code, rfl⟩ | ⟨hn, -⟩ := exec_raised_or_transition h
    · rfl
    · exact absurd hn hf

end Sys2Proof.Machine
end

section
/-! The reserved operation ids (30_encoding.md R74): the ids in no row of R73, which the decoder refuses by name before
it reads an argument. -/

namespace Sys2Proof

/-! ### The decoder on an id in no row -/

/-- The ids of the rows of 30_encoding.md R73, in the decoder's order. -/
def operationIds : List Byte :=
  [opStart, opStop, opBitDelay, opWriteByte, opEncData, opEncAddr, opEncDisp, opEncodeCharacter, opEncodeDecimal,
    opEncodeDecimalWithDot, opEncodeString, opDisplayBegin, opDisplayClose, opDisplayClear, opSetBrightness,
    opSetSegments, opDisplayDecimal, opDisplayDecimalWDot, opDisplayString]

/-- An id in no row is refused by name, and its arguments are not read. -/
theorem takeArguments_of_notMem_operationIds {op : Byte} (args : List Byte) (h : op ∉ operationIds) :
    takeArguments op args = .error (.reservedOperationId op) := by
  simp only [operationIds, List.mem_cons, List.not_mem_nil, or_false, not_or] at h
  simp only [takeArguments, h, if_false]

/-- A record is refused by the name its first operation is refused by. -/
theorem decodeRecord_cons_of_takeArguments_error {op : Byte} {args : List Byte} {e : DecodeError}
    (h : takeArguments op args = .error e) : decodeRecord (op :: args) = .error e := by
  simp only [decodeRecord, takeInstr, h]

namespace Machine

/-! ### Refused requests -/

/-- A record request is refused by the name its record is refused by. -/
theorem decodeRequest_record_of_error {bytes : List Byte} {e : DecodeError} (s : State)
    (h : decodeRecord bytes = .error e) : decodeRequest s (.record bytes) = .error (.record e) := by
  simp only [decodeRequest, h]

/-- Without a recorded fault, a step on a request the decoder refuses is that refusal. -/
theorem step_of_decodeRequest_error {s : State} {r : Request} {rest : List Request} {e : Refusal}
    (hf : s.fault = none) (hr : s.requests = r :: rest) (h : decodeRequest s r = .error e) :
    step s = .refused e := by
  simp only [step, fetch, hf, hr, h]

/-! ### The reserved ids -/

open Sys2Proof.Claims

/-- The ranges of R74 hold no id of R73: none of the nineteen ids lies in one. -/
theorem notMem_operationIds_of_reservedId {op : Byte} (h : reservedId op) : op ∉ operationIds := by
  have rows_unreserved : ∀ id ∈ operationIds, ¬reservedId id := by
    unfold reservedId
    decide
  exact fun hmem => rows_unreserved op hmem h

/-- A record that begins with a reserved id is refused by name, whatever follows. -/
theorem decodeRecord_of_reservedId {op : Byte} (args : List Byte) (h : reservedId op) :
    decodeRecord (op :: args) = .error (.reservedOperationId op) :=
  decodeRecord_cons_of_takeArguments_error
    (takeArguments_of_notMem_operationIds args (notMem_operationIds_of_reservedId h))

/-- Settles O12: a reserved id is in no row of the decoder's table, so the record is refused, and the step with it. -/
theorem reservedIdsRefused : Obligations.ReservedIdsRefused := by
  unfold Obligations.ReservedIdsRefused
  intro op args h
  have hd := decodeRecord_of_reservedId args h
  exact ⟨hd, fun s _ hf hr => step_of_decodeRequest_error hf hr (decodeRequest_record_of_error s hd)⟩

end Machine

end Sys2Proof
end

section
/-! The ProtocolDriver's four operations (40_protocol.md R101, R104, R106, R108): what the shared check answers in each
phase, the two phase checks of the driver, the counts of WRITEBYTE's actions, and the four statements over them. -/

namespace Sys2Proof.Machine

open Sys2Proof.Claims

/-! ### What the check answers -/

/-- In UNINIT or CLOSED the check raises NOT_OPEN. -/
theorem State.check_notOpen {s : State} {op : Byte} {accepts : Phase → Bool} {go : State → Result}
    (hf : s.fault = none) (hn : NotOpen s) : s.check op accepts go = .next (s.raise .notOpen op) := by
  rw [State.check, State.running_of_none hf]
  exact if_pos hn

/-- In an open phase that is not accepted the check raises FRAMING. -/
theorem State.check_framing {s : State} {op : Byte} {accepts : Phase → Bool} {go : State → Result}
    (hf : s.fault = none) (hn : ¬NotOpen s) (ha : accepts s.phase = false) :
    s.check op accepts go = .next (s.raise .framing op) := by
  rw [State.check, State.running_of_none hf]
  exact (if_neg hn).trans (if_neg (by simp [ha]))

/-- An operation that looks for a recorded fault first stops on one. -/
theorem stopsOnFault_of_running {i : Instr} {go : State → Result} (he : ∀ s, exec i s = s.running go) :
    StopsOnFault i :=
  fun s _ hr => (he s).trans (State.running_of_some hr)

/-- A checked operation stops on a recorded fault. -/
theorem stopsOnFault_of_check {i : Instr} {op : Byte} {accepts : Phase → Bool} {go : State → Result}
    (he : ∀ s, exec i s = s.check op accepts go) : StopsOnFault i :=
  stopsOnFault_of_running he

/-- A checked operation raises NOT_OPEN where the bus is not open. -/
theorem raises_notOpen_of_check {i : Instr} {s : State} {op : Byte} {accepts : Phase → Bool} {go : State → Result}
    (he : exec i s = s.check op accepts go) (hf : s.fault = none) (hn : NotOpen s) : Raises i s .notOpen :=
  raises_of_exec_eq_raise (he.trans (State.check_notOpen hf hn))

/-- A checked operation raises FRAMING in an open phase it does not accept. -/
theorem raises_framing_of_check {i : Instr} {s : State} {op : Byte} {accepts : Phase → Bool} {go : State → Result}
    (he : exec i s = s.check op accepts go) (hf : s.fault = none) (hn : ¬NotOpen s) (ha : accepts s.phase = false) :
    Raises i s .framing :=
  raises_of_exec_eq_raise (he.trans (State.check_framing hf hn ha))

/-! ### The two phase checks of the driver -/

/-- In IDLE the bus is open. -/
theorem not_notOpen_of_idle {s : State} (hp : s.phase = .idle) : ¬NotOpen s := by
  simp [NotOpen, hp]

/-- Inside a transaction the bus is open. -/
theorem not_notOpen_of_inTransaction {s : State} (hp : InTransaction s) : ¬NotOpen s := by
  obtain h | h := hp <;> simp [NotOpen, h]

/-- START's check refuses every phase inside a transaction. -/
theorem inIdle_eq_false_of_inTransaction {s : State} (hp : InTransaction s) : inIdle s.phase = false := by
  obtain h | h := hp <;> simp [inIdle, h]

/-- STOP's and WRITEBYTE's check refuses IDLE. -/
theorem inFrame_eq_false_of_idle {s : State} (hp : s.phase = .idle) : inFrame s.phase = false := by
  simp [inFrame, hp]

/-- An accepted phase that the check reaches: the bus is open there, so the operation goes on. -/
theorem State.check_pass_of_open {s : State} {op : Byte} {accepts : Phase → Bool} {go : State → Result}
    (hf : s.fault = none) (hn : ¬NotOpen s) (ha : accepts s.phase = true) : s.check op accepts go = go s :=
  State.check_pass hf (fun h => hn (.inl h)) (fun h => hn (.inr h)) ha

/-- In IDLE an operation that needs IDLE goes on. -/
theorem State.check_inIdle {s : State} {op : Byte} {go : State → Result} (hf : s.fault = none)
    (hp : s.phase = .idle) : s.check op inIdle go = go s :=
  State.check_pass_of_open hf (not_notOpen_of_idle hp) (by simp [inIdle, hp])

/-- Inside a transaction an operation that needs an open frame goes on. -/
theorem State.check_inFrame {s : State} {op : Byte} {go : State → Result} (hf : s.fault = none)
    (hp : InTransaction s) : s.check op inFrame go = go s :=
  State.check_pass_of_open hf (not_notOpen_of_inTransaction hp) (by obtain h | h := hp <;> simp [inFrame, h])

/-! ### How long WRITEBYTE's actions are -/

/-- The delays of a trace that goes on are those of its two parts. -/
@[simp] theorem delayCount_append (before more : List Action) :
    delayCount (before ++ more) = delayCount before + delayCount more := List.countP_append

@[simp] theorem bitActions_length (us : Nat) (v : Bool) : (bitActions us v).length = 6 := rfl

@[simp] theorem bitActions_delayCount (us : Nat) (v : Bool) : delayCount (bitActions us v) = 2 := rfl

/-- Eight bits of six actions, and the five of the acknowledgement pulse. -/
@[simp] theorem byteActions_length (us : Nat) (b : Byte) (a : Level) : (byteActions us b a).length = 53 := by
  simp [byteActions]

/-- Two delays in each of the eight bits, and one in the acknowledgement pulse. -/
@[simp] theorem byteActions_delayCount (us : Nat) (b : Byte) (a : Level) : delayCount (byteActions us b a) = 17 := by
  have pulse : delayCount [.dioRelease, .clkSet .high, .dioSample a, .delay us, .clkSet .low] = 1 := rfl
  simp [byteActions, pulse]

/-- The acknowledgement as the statements write it. -/
theorem ackOf_eq_decide (a : Level) : ackOf a = decide (a = .low) := by
  cases a <;> rfl

/-! ### The statements -/

/-- Settles O16: in IDLE START goes on to its sequence; elsewhere its check raises. -/
theorem startCondition : Obligations.StartCondition := by
  unfold Obligations.StartCondition
  refine ⟨rfl, stopsOnFault_of_check exec_start, fun s hf => ⟨fun hp => ?_, fun hn => ?_, fun hp => ?_⟩⟩
  · exact ⟨_, (exec_start s).trans (State.check_inIdle hf hp), by rw [State.startCondition_eq]; rfl⟩
  · exact raises_notOpen_of_check (exec_start s) hf hn
  · exact raises_framing_of_check (exec_start s) hf (not_notOpen_of_inTransaction hp)
      (inIdle_eq_false_of_inTransaction hp)

/-- Settles O17: in a transaction STOP goes on to its sequence; elsewhere its check raises. -/
theorem stopCondition : Obligations.StopCondition := by
  unfold Obligations.StopCondition
  refine ⟨rfl, stopsOnFault_of_check exec_stop, fun s hf => ⟨fun hp => ?_, fun hn => ?_, fun hp => ?_⟩⟩
  · exact ⟨_, (exec_stop s).trans (State.check_inFrame hf hp), by rw [State.stopCondition_eq]; rfl⟩
  · exact raises_notOpen_of_check (exec_stop s) hf hn
  · exact raises_framing_of_check (exec_stop s) hf (not_notOpen_of_idle hp) (inFrame_eq_false_of_idle hp)

/-- Settles O18: BITDELAY has no phase check, so without a fault it always goes on to its one delay. -/
theorem bitDelayAppendsOneDelay : Obligations.BitDelayAppendsOneDelay := by
  unfold Obligations.BitDelayAppendsOneDelay
  exact ⟨rfl, stopsOnFault_of_running exec_bitDelay,
    fun s hf => (exec_bitDelay s).trans (State.running_of_none hf)⟩

/-- Settles O19: in a transaction WRITEBYTE goes on to its sequence, whose action list has the counts of R108; elsewhere
its check raises. -/
theorem writeByteSendsOneByte : Obligations.WriteByteSendsOneByte := by
  unfold Obligations.WriteByteSendsOneByte
  refine ⟨fun b => ⟨rfl, stopsOnFault_of_check (exec_writeByte b)⟩,
    fun s b hf => ⟨fun hp => ?_, fun hn => ?_, fun hp => ?_⟩⟩
  · refine ⟨_, (exec_writeByte b s).trans (State.check_inFrame hf hp), ?_, byteActions_length ..,
      byteActions_delayCount ..⟩
    rw [State.sendByte_eq, State.sampleAt_zero, ← ackOf_eq_decide, List.drop_one]
    rfl
  · exact raises_notOpen_of_check (exec_writeByte b s) hf hn
  · exact raises_framing_of_check (exec_writeByte b s) hf (not_notOpen_of_idle hp) (inFrame_eq_false_of_idle hp)

end Sys2Proof.Machine
end

section
/-! The CommandEncoder's three operations (41_command_encoder.md R132 to R135): an operation that only answers a byte of
the configuration, the level field of ENC_DISP, and the statement over both. -/

namespace Sys2Proof.Machine

open Sys2Proof.Claims

/-- An operation whose meaning is to answer one byte read from the configuration stops on a recorded fault. Without one
it adds that reply in every phase and changes nothing else (R135). -/
theorem exec_of_answersByte {i : Instr} (value : Config → Byte)
    (he : ∀ s, exec i s = s.running fun s => .next (s.reply (.ok (.byte (value s.cfg))))) :
    StopsOnFault i ∧ ∀ s, s.fault = none →
      exec i s = .next { s with replies := s.replies ++ [.ok (.byte (value s.cfg))] } :=
  ⟨stopsOnFault_of_running he, fun s hf => (he s).trans (State.running_of_none hf)⟩

/-- Masked to its low three bits a level fits the 3-bit field, so the field widens back to the masked byte. -/
theorem brightnessLevel_setWidth (level : Byte) : (brightnessLevel level).setWidth 8 = level &&& 0x07 := by
  have masked_lt : (level &&& 0x07).toNat < 2 ^ 3 := by
    rw [BitVec.toNat_and]
    exact Nat.and_lt_two_pow _ (by decide)
  apply BitVec.eq_of_toNat_eq
  rw [brightnessLevel, BitVec.toNat_setWidth, BitVec.toNat_setWidth]
  omega

/-- ENC_DISP's byte with its on field and its level written out (R134). -/
theorem displayCommand_eq (c : Config) (level : Byte) (on : Bool) : displayCommand c level on =
    c.cmdDispBase ||| (if on then c.dispOnBit else 0) ||| (level &&& 0x07) := by
  rw [displayCommand, onField, brightnessLevel_setWidth]

/-- ENC_DISP's record: its bool byte is read back whichever it is. -/
theorem decodeRecord_encDisp (level : Byte) (on : Bool) :
    decodeRecord [0x0A, level, if on then 0x01 else 0x00] = .ok (.encDisp level on) := by
  cases on <;> rfl

/-- Settles O22: each of the three only answers its byte of the configuration. -/
theorem commandEncoderBytes : Obligations.CommandEncoderBytes := by
  unfold Obligations.CommandEncoderBytes
  refine ⟨⟨rfl, exec_of_answersByte dataCommand exec_encData⟩,
    fun pos => ⟨rfl, exec_of_answersByte (addressCommand · pos) (exec_encAddr pos)⟩,
    fun level on => ⟨decodeRecord_encDisp level on, ?_⟩⟩
  simp only [← displayCommand_eq]
  exact exec_of_answersByte (displayCommand · level on) (exec_encDisp level on)

end Sys2Proof.Machine
end

section
/-! The GlyphTable (42_glyph.md): the table's read as the statements write it, the glyph of a character code inside and
outside the table's range, and the entries every legal table holds (R141). -/

namespace Sys2Proof.Machine

open Sys2Proof.Claims

/-- At an index of the table the named read is the table's entry. -/
theorem Config.glyphAt_of_lt {c : Config} {i : Nat} (hi : i < 96) : c.glyphAt i = c.glyph[i] :=
  dif_pos hi

/-- In the table's range a code's glyph is its entry (R140). -/
theorem glyphOf_of_inRange {c : Config} {ch : Byte} (hr : 0x20 ≤ ch.toNat ∧ ch.toNat ≤ 0x7F) :
    glyphOf c ch = c.glyph[ch.toNat - 0x20] :=
  (if_pos hr).trans (Config.glyphAt_of_lt (by omega))

/-- Outside the table's range the glyph is blank (R143). -/
theorem glyphOf_of_not_inRange {c : Config} {ch : Byte} (hr : ¬(0x20 ≤ ch.toNat ∧ ch.toNat ≤ 0x7F)) :
    glyphOf c ch = 0x00 :=
  if_neg hr

/-- The statements' lookup finds the model's glyph for every code: the range check keeps each index inside the table. -/
theorem glyph_eq_some_glyphOf (c : Config) (ch : Byte) : glyph c ch = some (glyphOf c ch) := by
  by_cases hr : 0x20 ≤ ch.toNat ∧ ch.toNat ≤ 0x7F
  · have index_lt : ch.toNat - 0x20 < 96 := by omega
    rw [glyphOf_of_inRange hr, glyph, if_pos hr, Vector.getElem?_eq_getElem index_lt]
  · rw [glyphOf_of_not_inRange hr, glyph, if_neg hr]

/-- The three entries of a legal configuration's table (R141). -/
theorem fixedEntries_of_legal {c : Config} (hc : c.Legal) :
    c.glyph[0] = 0x00 ∧ c.glyph[16] = 0x3F ∧ c.glyph[17] = 0x06 := by
  have glyph_legal : c.glyphLegal = true := (Bool.and_eq_true_iff.mp hc).2
  simpa [Config.glyphLegal, and_assoc] using glyph_legal

/-- ENCODECHARACTER only answers the code's glyph, in every phase, and stops on a recorded fault (R145). -/
theorem exec_encodeCharacter_answersGlyph (ch : Byte) :
    StopsOnFault (.encodeCharacter ch) ∧ ∀ s, s.fault = none →
      exec (.encodeCharacter ch) s = .next { s with replies := s.replies ++ [.ok (.byte (glyphOf s.cfg ch))] } :=
  exec_of_answersByte (glyphOf · ch) (exec_encodeCharacter ch)

/-- Settles O23: the byte ENCODECHARACTER answers is the one the statement's lookup finds. -/
theorem encodeCharacterReadsTheTable : Obligations.EncodeCharacterReadsTheTable := by
  unfold Obligations.EncodeCharacterReadsTheTable
  intro ch
  obtain ⟨stops, answers⟩ := exec_encodeCharacter_answersGlyph ch
  exact ⟨rfl, stops, fun s hf => ⟨_, glyph_eq_some_glyphOf s.cfg ch, answers s hf⟩⟩

/-- Settles O24: the three codes are in range, and their entries are those a legal table holds. -/
theorem fixedGlyphs : Obligations.FixedGlyphs := by
  unfold Obligations.FixedGlyphs
  intro s hf hc
  obtain ⟨blank, zero, one⟩ := fixedEntries_of_legal hc
  have answers {ch v : Byte} (hv : glyphOf s.cfg ch = v) :
      exec (.encodeCharacter ch) s = .next { s with replies := s.replies ++ [.ok (.byte v)] } :=
    hv ▸ (exec_encodeCharacter_answersGlyph ch).2 s hf
  exact ⟨answers ((glyphOf_of_inRange (by decide)).trans blank),
    answers ((glyphOf_of_inRange (by decide)).trans zero), answers ((glyphOf_of_inRange (by decide)).trans one)⟩

end Sys2Proof.Machine
end

section
/-! The Formatter (43_formatter.md): the records of its three operations, an operation that only answers a reply, the
digits of a magnitude through `Nat.digits` (R150), the characters of a decimal value (R151 to R157), the dots (R164), the
characters of a text (R160, R161), and the four statements. -/

namespace Sys2Proof

/-! ### The records -/

/-- A record that its first operation's arguments use up is that operation. -/
theorem decodeRecord_cons_of_takeArguments_ok {op : Byte} {args : List Byte} {i : Instr}
    (h : takeArguments op args = .ok (i, [])) : decodeRecord (op :: args) = .ok i := by
  simp only [decodeRecord, takeInstr, h]

/-- The four bytes of an `i32` are read back as its value. -/
theorem takeI32_putI32 (v : BitVec 32) (rest : List Byte) : takeI32 (putI32 v ++ rest) = .ok (v, rest) := by
  have joined : v.extractLsb' 24 8 ++ v.extractLsb' 16 8 ++ v.extractLsb' 8 8 ++ v.extractLsb' 0 8 = v := by
    rw [BitVec.extractLsb'_append_extractLsb'_eq_extractLsb' (rfl : 24 = 16 + 8),
      BitVec.extractLsb'_append_extractLsb'_eq_extractLsb' (rfl : 16 = 8 + 8),
      BitVec.extractLsb'_append_extractLsb'_eq_extractLsb' (rfl : 8 = 0 + 8)]
    exact BitVec.extractLsb'_eq_self
  exact congrArg (fun v => Except.ok (v, rest)) joined

/-- The byte of a `bool` is read back as its value. -/
theorem takeBool_putBool (b : Bool) (rest : List Byte) : takeBool (putBool b :: rest) = .ok (b, rest) := by
  cases b <;> rfl

/-- A `bytes` whose length fits its length byte is read back as its elements. -/
theorem takeBytes_putBytes {l : List Byte} (rest : List Byte) (h : l.length ≤ 255) :
    takeBytes (putBytes l ++ rest) = .ok (l, rest) := by
  have length_kept : (BitVec.ofNat 8 l.length).toNat = l.length := by
    rw [BitVec.toNat_ofNat]
    omega
  simp [putBytes, takeBytes, length_kept]

/-- ENCODEDECIMAL's record is read back. -/
theorem decodeRecord_encodeDecimal (v : BitVec 32) (lz : Bool) (len : Byte) :
    decodeRecord (0x18 :: putI32 v ++ [putBool lz, len]) = .ok (.encodeDecimal v lz len) := by
  apply decodeRecord_cons_of_takeArguments_ok
  change (takeI32 (putI32 v ++ [putBool lz, len]) >>= _) = _
  rw [takeI32_putI32]
  change (takeBool [putBool lz, len] >>= _) = _
  rw [takeBool_putBool]
  rfl

/-- ENCODEDECIMALWITHDOT's record is read back. -/
theorem decodeRecord_encodeDecimalWithDot (v : BitVec 32) (m : Byte) (lz : Bool) (len : Byte) :
    decodeRecord (0x19 :: putI32 v ++ [m, putBool lz, len]) = .ok (.encodeDecimalWithDot v m lz len) := by
  apply decodeRecord_cons_of_takeArguments_ok
  change (takeI32 (putI32 v ++ [m, putBool lz, len]) >>= _) = _
  rw [takeI32_putI32]
  change (takeBool [putBool lz, len] >>= _) = _
  rw [takeBool_putBool]
  rfl

/-- ENCODESTRING's record is read back where the text's length fits its length byte. -/
theorem decodeRecord_encodeString {t : List Byte} (m len pos : Byte) (h : t.length ≤ 255) :
    decodeRecord (0x1A :: putBytes t ++ [m, len, pos]) = .ok (.encodeString t m len pos) := by
  apply decodeRecord_cons_of_takeArguments_ok
  change (takeBytes (putBytes t ++ [m, len, pos]) >>= _) = _
  rw [takeBytes_putBytes _ h]
  rfl

namespace Machine

open Sys2Proof.Claims

/-! ### Operations that only answer -/

/-- An operation whose meaning is to answer one reply computed from the configuration stops on a recorded fault. Without
one it adds that reply in every phase and changes nothing else. -/
theorem exec_of_answersReply {i : Instr} (answer : Config → Reply)
    (he : ∀ s, exec i s = s.running fun s => .next (s.reply (answer s.cfg))) :
    StopsOnFault i ∧ ∀ s, s.fault = none → exec i s = .next { s with replies := s.replies ++ [answer s.cfg] } :=
  ⟨stopsOnFault_of_running he, fun s hf => (he s).trans (State.running_of_none hf)⟩

/-- ENCODEDECIMAL only answers the formatted value. -/
theorem exec_encodeDecimal_answersSlots (v : BitVec 32) (lz : Bool) (len : Byte) :
    StopsOnFault (.encodeDecimal v lz len) ∧ ∀ s, s.fault = none → exec (.encodeDecimal v lz len) s =
      .next { s with replies := s.replies ++ [.ok (.bytes (formatDecimal s.cfg v lz len.toNat))] } :=
  exec_of_answersReply (fun c => .ok (.bytes (formatDecimal c v lz len.toNat))) (exec_encodeDecimal v lz len)

/-- ENCODEDECIMALWITHDOT only answers the formatted value with its dots. -/
theorem exec_encodeDecimalWithDot_answersSlots (v : BitVec 32) (m : Byte) (lz : Bool) (len : Byte) :
    StopsOnFault (.encodeDecimalWithDot v m lz len) ∧ ∀ s, s.fault = none → exec (.encodeDecimalWithDot v m lz len) s =
      .next { s with replies := s.replies ++ [.ok (.bytes (formatDecimalWithDot s.cfg v m lz len.toNat))] } :=
  exec_of_answersReply (fun c => .ok (.bytes (formatDecimalWithDot c v m lz len.toNat)))
    (exec_encodeDecimalWithDot v m lz len)

/-- ENCODESTRING only answers the formatted text and the position. -/
theorem exec_encodeString_answersSlots (t : List Byte) (m len pos : Byte) :
    StopsOnFault (.encodeString t m len pos) ∧ ∀ s, s.fault = none → exec (.encodeString t m len pos) s =
      .next { s with replies := s.replies ++ [.ok (.placed (formatString s.cfg t m len.toNat) pos)] } :=
  exec_of_answersReply (fun c => .ok (.placed (formatString c t m len.toNat) pos)) (exec_encodeString t m len pos)

/-! ### The digits of a magnitude (R150) -/

/-- The code of a digit is above that of '0' by the digit. -/
theorem digitCode_toNat {d : Nat} (h : d < 10) : (digitCode d).toNat = 0x30 + d := by
  rw [digitCode, BitVec.toNat_ofNat]
  omega

/-- With fuel for all its digits a positive number gets the codes of its decimal digits, most significant first. -/
theorem digitsBefore_eq_digits {fuel n : Nat} (found : List Byte) (hpos : 0 < n) (hfuel : n < 10 ^ fuel) :
    digitsBefore fuel n found = ((Nat.digits 10 n).map digitCode).reverse ++ found := by
  induction fuel generalizing n found with
  | zero => omega
  | succ fuel ih =>
    rw [Nat.digits_def' (by decide) hpos, digitsBefore]
    split
    next hlt => simp [Nat.mod_eq_of_lt hlt, Nat.div_eq_of_lt hlt]
    next hge => simp [ih (n := n / 10) _ (by omega) (by rw [pow_succ] at hfuel; omega)]

/-- The digits of zero are the single '0'. -/
theorem decimalDigits_of_zero {v : BitVec 32} (h : v.toInt.natAbs = 0) : decimalDigits v = [0x30] := by
  rw [decimalDigits, h]
  rfl

/-- A 32-bit magnitude has at most ten digits, so the model's fuel reaches them all. -/
theorem decimalDigits_of_pos {v : BitVec 32} (h : 0 < v.toInt.natAbs) :
    decimalDigits v = ((Nat.digits 10 v.toInt.natAbs).map digitCode).reverse := by
  have magnitude_lt : v.toInt.natAbs < 10 ^ 10 := by
    have upper := v.toInt_lt
    have lower := v.le_toInt
    omega
  rw [decimalDigits, digitsBefore_eq_digits [] h magnitude_lt, List.append_nil]

/-- One more digit at the end makes the value ten times itself and that digit. -/
theorem decimalValue_concat (digits : List Byte) (d : Byte) :
    decimalValue (digits ++ [d]) = 10 * decimalValue digits + (d.toNat - 0x30) := by
  simp [decimalValue]

/-- The codes of decimal digits have the value of the digits. -/
theorem decimalValue_digitCodes {ds : List Nat} (h : ∀ d ∈ ds, d < 10) :
    decimalValue (ds.map digitCode).reverse = Nat.ofDigits 10 ds := by
  induction ds with
  | nil => rfl
  | cons d ds ih =>
    obtain ⟨hd, hds⟩ := List.forall_mem_cons.mp h
    rw [List.map_cons, List.reverse_cons, decimalValue_concat, ih hds, digitCode_toNat hd, Nat.ofDigits_cons,
      Nat.add_sub_cancel_left, Nat.add_comm]

/-- The most significant digit of a positive number is not zero. -/
theorem head?_digitCodes_ne_zero {n : Nat} (h : 0 < n) :
    ((Nat.digits 10 n).map digitCode).reverse.head? ≠ some 0x30 := by
  have ne_nil : Nat.digits 10 n ≠ [] := Nat.digits_ne_nil_iff_ne_zero.mpr h.ne'
  have last_ne : (Nat.digits 10 n).getLast ne_nil ≠ 0 := Nat.getLast_digit_ne_zero 10 h.ne'
  have last_lt : (Nat.digits 10 n).getLast ne_nil < 10 := Nat.digits_lt_base (by decide) (List.getLast_mem ne_nil)
  rw [List.head?_reverse, List.getLast?_map, List.getLast?_eq_some_getLast ne_nil]
  intro heq
  have code : (digitCode ((Nat.digits 10 n).getLast ne_nil)).toNat = 0x30 :=
    congrArg BitVec.toNat (Option.some.inj heq)
  rw [digitCode_toNat last_lt] at code
  omega

/-- Settles O25: zero has its single digit; any other magnitude has the codes of its `Nat.digits`. -/
theorem decimalDigitsAreExact : Obligations.DecimalDigitsAreExact := by
  unfold Obligations.DecimalDigitsAreExact
  intro v
  obtain hzero | hpos := v.toInt.natAbs.eq_zero_or_pos
  · rw [decimalDigits_of_zero hzero, hzero]
    decide
  · have digits_lt : ∀ d ∈ Nat.digits 10 v.toInt.natAbs, d < 10 := fun d => Nat.digits_lt_base (by decide)
    rw [decimalDigits_of_pos hpos]
    refine ⟨fun b hb => ?_, ?_, ?_, fun hhead => absurd hhead (head?_digitCodes_ne_zero hpos)⟩
    · obtain ⟨d, hd, rfl⟩ := List.mem_map.mp (List.mem_reverse.mp hb)
      have hlt := digits_lt d hd
      rw [digitCode_toNat hlt]
      omega
    · rw [decimalValue_digitCodes digits_lt, Nat.ofDigits_digits]
    · simpa [Nat.digits_ne_nil_iff_ne_zero] using hpos.ne'

/-! ### The characters of a decimal value (R151 to R157) -/

/-- A value that is not negative has no sign. -/
theorem signedDigits_of_nonneg {v : BitVec 32} (h : 0 ≤ v.toInt) : signedDigits v = decimalDigits v :=
  congrArg (· ++ decimalDigits v) (if_neg h.not_gt)

/-- A negative value has its minus before the digits. -/
theorem signedDigits_of_neg {v : BitVec 32} (h : ¬0 ≤ v.toInt) : signedDigits v = 0x2D :: decimalDigits v :=
  congrArg (· ++ decimalDigits v) (if_pos (not_le.mp h))

/-- The characters of a value by the cases of R151 to R154, over the sign and digits of the statements. -/
theorem decimalChars_eq (v : BitVec 32) (lz : Bool) (len : Nat) : decimalChars v lz len =
    if len ≤ (signedDigits v).length then lastElements (signedDigits v) len
    else if lz = false then List.replicate (len - (signedDigits v).length) 0x20 ++ signedDigits v
    else if 0 ≤ v.toInt then List.replicate (len - (signedDigits v).length) 0x30 ++ decimalDigits v
    else 0x2D :: (List.replicate (len - (signedDigits v).length) 0x30 ++ decimalDigits v) := by
  have signed : (if decide (v.toInt < 0) then [minusCode] else []) ++ decimalDigits v = signedDigits v := by
    simp [signedDigits, minusCode]
  simp only [decimalChars, signed, Bool.not_eq_true', decide_eq_false_iff_not, not_lt]
  rfl

/-- A value of `len` slots has that many characters: in each case the padding is what sign and digits leave free. -/
theorem decimalChars_length (v : BitVec 32) (lz : Bool) (len : Nat) : (decimalChars v lz len).length = len := by
  rw [decimalChars_eq]
  split_ifs with hfull hblank hsign
  · rw [lastElements, List.length_drop]
    omega
  · rw [List.length_append, List.length_replicate]
    omega
  · rw [List.length_append, List.length_replicate, ← signedDigits_of_nonneg hsign]
    omega
  · rw [signedDigits_of_neg hsign] at hfull ⊢
    simp only [List.length_cons, List.length_append, List.length_replicate] at hfull ⊢
    omega

/-- Padding on the left, read by index. -/
theorem replicate_append_getElem? (n : Nat) (pad : Byte) (l : List Byte) (k : Nat) :
    (List.replicate n pad ++ l)[k]? = if k < n then some pad else l[k - n]? := by
  rw [List.getElem?_append, List.length_replicate]
  split
  next hk => exact List.getElem?_replicate_of_lt hk
  next => rfl

/-- Padding after a first character, read by index. -/
theorem cons_replicate_append_getElem? (first : Byte) (n : Nat) (pad : Byte) (l : List Byte) (k : Nat) :
    (first :: (List.replicate n pad ++ l))[k]? =
      if k = 0 then some first else if k ≤ n then some pad else l[k - n - 1]? := by
  cases k with
  | zero => rfl
  | succ k =>
    rw [List.getElem?_cons_succ, replicate_append_getElem?, if_neg k.succ_ne_zero, Nat.sub_right_comm,
      Nat.add_sub_cancel]
    rfl

/-- Slot k of a value holds the character the rules put there, in each of their four cases. -/
theorem decimalChars_getElem? (v : BitVec 32) (lz : Bool) (len k : Nat) :
    (decimalChars v lz len)[k]? = decimalSlot v lz len k := by
  simp only [decimalChars_eq, decimalSlot]
  split
  next => exact List.getElem?_drop
  next =>
    split
    next => exact replicate_append_getElem? ..
    next =>
      split
      next => exact replicate_append_getElem? ..
      next => exact cons_replicate_append_getElem? ..

/-- Slot k of ENCODEDECIMAL's result is the glyph of that character. -/
theorem formatDecimal_getElem? (c : Config) (v : BitVec 32) (lz : Bool) (len k : Nat) :
    (formatDecimal c v lz len)[k]? = (decimalSlot v lz len k).bind (glyph c) := by
  rw [formatDecimal, List.getElem?_map, decimalChars_getElem?, funext (glyph_eq_some_glyphOf c)]
  exact Option.map_eq_bind

/-- Settles O26: ENCODEDECIMAL only answers its characters' glyphs, and these are `length` many and slot by slot those of
the rules. -/
theorem encodeDecimalSlots : Obligations.EncodeDecimalSlots := by
  unfold Obligations.EncodeDecimalSlots
  intro v lz len
  obtain ⟨stops, answers⟩ := exec_encodeDecimal_answersSlots v lz len
  refine ⟨decodeRecord_encodeDecimal v lz len, stops, fun s hf => ⟨_, answers s hf, ?_, fun k _ => ?_⟩⟩
  · rw [formatDecimal, List.length_map, decimalChars_length]
  · exact formatDecimal_getElem? ..

/-! ### The dots (R164) -/

/-- Dots change no buffer's length. -/
theorem applyDots_length (buffer : List Byte) (m : Byte) : (applyDots buffer m).length = buffer.length :=
  List.length_mapIdx

/-- Each slot with dots is the slot before, with the dp/colon bit where the mask selects it. -/
theorem applyDots_getElem? (buffer : List Byte) (m : Byte) (k : Nat) :
    (applyDots buffer m)[k]? = (buffer[k]?).map (dotted m k) := by
  rw [applyDots, List.getElem?_mapIdx]
  exact congrArg (Option.map · buffer[k]?) (funext fun v => by simp [maskSelects, dotted])

/-- Settles O27: ENCODEDECIMALWITHDOT answers ENCODEDECIMAL's slots with the dots applied. -/
theorem encodeDecimalWithDotSlots : Obligations.EncodeDecimalWithDotSlots := by
  unfold Obligations.EncodeDecimalWithDotSlots
  intro v m lz len
  obtain ⟨stops, answers⟩ := exec_encodeDecimalWithDot_answersSlots v m lz len
  obtain ⟨-, answers_plain⟩ := exec_encodeDecimal_answersSlots v lz len
  exact ⟨decodeRecord_encodeDecimalWithDot v m lz len, stops, fun s hf =>
    ⟨_, _, answers_plain s hf, answers s hf, applyDots_length .., applyDots_getElem? _ m⟩⟩

/-! ### The characters of a text (R160, R161) -/

/-- The text up to its first 0x00, read by index. -/
theorem textUpToZero_getElem? (t : List Byte) (k : Nat) : (textUpToZero t)[k]? = textSlot t k := by
  induction t generalizing k with
  | nil => simp [textUpToZero, textSlot]
  | cons ch t ih =>
    by_cases hz : ch = 0x00
    · simp [textUpToZero, textSlot, hz]
    · have kept : textUpToZero (ch :: t) = ch :: textUpToZero t :=
        List.takeWhile_cons_of_pos (bne_iff_ne.mpr hz)
      have not_first : ¬0x00#8 = ch := Ne.symm hz
      cases k with
      | zero => simp [kept, textSlot, not_first]
      | succ k => simp [kept, ih, textSlot, not_first]

/-- ENCODESTRING's result has `len` slots. -/
theorem formatString_length (c : Config) (t : List Byte) (m : Byte) (len : Nat) :
    (formatString c t m len).length = len := by
  rw [formatString, applyDots_length, List.length_map, List.length_range]

/-- Slot k of ENCODESTRING's result is the glyph of the text's character there, blank where it has none, with its dot. -/
theorem formatString_getElem? (c : Config) (t : List Byte) (m : Byte) {len k : Nat} (hk : k < len) :
    (formatString c t m len)[k]? = some (dotted m k (((textSlot t k).map (glyphOf c)).getD 0x00)) := by
  rw [formatString, applyDots_getElem?, List.getElem?_map, List.getElem?_range hk, ← textUpToZero_getElem?]
  cases hch : (textUpToZero t)[k]? <;> simp [hch]

/-- Settles O28: ENCODESTRING only answers its slots and the position it was given. -/
theorem encodeStringSlots : Obligations.EncodeStringSlots := by
  unfold Obligations.EncodeStringSlots
  intro t m len pos
  obtain ⟨stops, answers⟩ := exec_encodeString_answersSlots t m len pos
  refine ⟨decodeRecord_encodeString m len pos, stops,
    fun s hf => ⟨_, answers s hf, formatString_length .., fun k hk => ?_⟩⟩
  rw [formatString_getElem? s.cfg t m hk]
  cases textSlot t k with
  | none => rfl
  | some ch => simp [glyph_eq_some_glyphOf]

end Machine

end Sys2Proof
end

section
/-! The Controller's transmitting operations (44_controller.md R173 to R181): their records, the faults of an operation
that needs IDLE, the acknowledgements and the last acknowledgement of bytes sent in a row, SETSEGMENTS in range under
any operation's id, and the five statements over them. -/

namespace Sys2Proof

/-! ### The records -/

/-- Reading an `i32` first goes on with its value. -/
theorem takeI32_putI32_bind {α : Type} (v : BitVec 32) (rest : List Byte)
    (go : BitVec 32 × List Byte → Except DecodeError α) : (takeI32 (putI32 v ++ rest) >>= go) = go (v, rest) := by
  rw [takeI32_putI32]
  rfl

/-- Reading a `bool` first goes on with its value. -/
theorem takeBool_putBool_bind {α : Type} (b : Bool) (rest : List Byte)
    (go : Bool × List Byte → Except DecodeError α) : (takeBool (putBool b :: rest) >>= go) = go (b, rest) := by
  rw [takeBool_putBool]
  rfl

/-- Reading a `bytes` first goes on with its elements. -/
theorem takeBytes_putBytes_bind {α : Type} {l : List Byte} (rest : List Byte)
    (go : List Byte × List Byte → Except DecodeError α) (h : l.length ≤ 255) :
    (takeBytes (putBytes l ++ rest) >>= go) = go (l, rest) := by
  rw [takeBytes_putBytes rest h]
  rfl

/-- SETSEGMENTS's record is read back where the buffer's length fits its length byte. -/
theorem decodeRecord_setSegments {buffer : List Byte} (len pos : Byte) (h : buffer.length ≤ 255) :
    decodeRecord (0x24 :: putBytes buffer ++ [len, pos]) = .ok (.setSegments buffer len pos) :=
  decodeRecord_cons_of_takeArguments_ok (takeBytes_putBytes_bind _ _ h)

/-- SETBRIGHTNESS's record: its bool byte is read back whichever it is. -/
theorem decodeRecord_setBrightness (level : Byte) (on : Bool) :
    decodeRecord [0x23, level, if on then 0x01 else 0x00] = .ok (.setBrightness level on) := by
  cases on <;> rfl

/-- DISPLAYDECIMAL's record is read back. -/
theorem decodeRecord_displayDecimal (v : BitVec 32) (lz : Bool) (len pos : Byte) :
    decodeRecord (0x28 :: putI32 v ++ [putBool lz, len, pos]) = .ok (.displayDecimal v lz len pos) :=
  decodeRecord_cons_of_takeArguments_ok ((takeI32_putI32_bind v _ _).trans (takeBool_putBool_bind lz _ _))

/-- DISPLAYDECIMALWDOT's record is read back. -/
theorem decodeRecord_displayDecimalWDot (v : BitVec 32) (m : Byte) (lz : Bool) (len pos : Byte) :
    decodeRecord (0x29 :: putI32 v ++ [m, putBool lz, len, pos]) = .ok (.displayDecimalWDot v m lz len pos) :=
  decodeRecord_cons_of_takeArguments_ok ((takeI32_putI32_bind v _ _).trans (takeBool_putBool_bind lz _ _))

/-- DISPLAYSTRING's record is read back where the text's length fits its length byte. -/
theorem decodeRecord_displayString {t : List Byte} (m len pos : Byte) (h : t.length ≤ 255) :
    decodeRecord (0x2A :: putBytes t ++ [m, len, pos]) = .ok (.displayString t m len pos) :=
  decodeRecord_cons_of_takeArguments_ok (takeBytes_putBytes_bind _ _ h)

namespace Machine

open Sys2Proof.Claims

/-! ### The faults of an operation that needs IDLE -/

/-- An operation checked for IDLE stops on a recorded fault; without one it raises NOT_OPEN where the bus is not open
and FRAMING inside a transaction. What it does in IDLE may depend on the state it was issued in. -/
theorem faults_of_check_inIdle {i : Instr} {op : Byte} {go : State → State → Result}
    (he : ∀ s, exec i s = s.check op inIdle (go s)) :
    StopsOnFault i ∧ ∀ s, s.fault = none →
      (NotOpen s → Raises i s .notOpen) ∧ (InTransaction s → Raises i s .framing) :=
  ⟨fun s _ hr => (he s).trans (State.running_of_some hr), fun s hf =>
    ⟨raises_notOpen_of_check (he s) hf, fun hp => raises_framing_of_check (he s) hf (not_notOpen_of_inTransaction hp)
      (inIdle_eq_false_of_inTransaction hp)⟩⟩

/-! ### Bytes sent in a row -/

/-- The acknowledgements of bytes sent in a row are those of the coming samples in order. -/
theorem State.sentFrom_acks (s : State) (k : Nat) (bytes : List Byte) :
    (s.sentFrom k bytes).map (fun x => ackOf x.2) =
      (List.range bytes.length).map fun i => decide (s.sampleAt (k + i) = .low) := by
  apply List.ext_getElem
  · simp
  · simp [State.sentFrom, ackOf_eq_decide]

/-- With a byte sent, the last acknowledgement is the one of the last sample. -/
theorem State.lastAckOf_sentFrom_cons (s : State) (before : Option Bool) (k : Nat) (b : Byte) (bs : List Byte) :
    lastAckOf before (s.sentFrom k (b :: bs)) = some (decide (s.sampleAt (k + bs.length) = .low)) := by
  rw [lastAckOf, State.sentFrom, List.getLast?_mapIdx, List.getLast?_eq_some_getLast (List.cons_ne_nil b bs)]
  exact congrArg some (ackOf_eq_decide _)

/-! ### SETSEGMENTS under any operation's id -/

/-- The range check in the words of R174. -/
theorem outOfRange_iff {c : Config} {n len pos : Nat} :
    outOfRange c n len pos = true ↔ c.digits ≤ pos ∨ c.digits - pos < len ∨ n < len := by
  simp [outOfRange, or_assoc]

/-- Inside the display and with bytes enough the range check passes. -/
theorem outOfRange_eq_false {c : Config} {n len pos : Nat} (hpos : pos < c.digits) (hlen : len ≤ c.digits - pos)
    (hn : len ≤ n) : outOfRange c n len pos = false := by
  rw [← Bool.not_eq_true, outOfRange_iff]
  omega

/-- In IDLE and in range SETSEGMENTS sends the data command, then the address command and its bytes, and answers all
their acknowledgements (R173, R175). -/
theorem State.setSegments_sends {s : State} (op : Byte) {buffer : List Byte} {len : Nat} {pos : Byte}
    (hf : s.fault = none) (hp : s.phase = .idle) (hr : outOfRange s.cfg buffer.length len pos.toNat = false) :
    ∃ t, s.setSegments op buffer len pos = .next t ∧ t = { s with
      clk := ⟨.output, .high⟩, dio := ⟨.output, .high⟩,
      lastAck := some (decide (s.sampleAt (len + 1) = .low)),
      trace := s.trace ++ frameActions s.cfg.bitDelayUs [(s.cfg.cmdData, s.sampleAt 0)] ++
        frameActions s.cfg.bitDelayUs (s.sentFrom 1 ((s.cfg.cmdAddrBase ||| pos) :: buffer.take len)),
      rx := t.rx, samples := s.samples.drop (len + 2), draws := s.draws + (len + 2),
      replies := s.replies ++ [.ok (.acks ((List.range (len + 2)).map fun k => decide (s.sampleAt k = .low)))] } := by
  have sent_length : (buffer.take len).length = len := by
    have enough : ¬buffer.length < len := fun h => by simp [outOfRange_iff.mpr (.inr (.inr h))] at hr
    rw [List.length_take]
    omega
  have acks : (s.sentFrom 0 [s.cfg.cmdData] ++ s.sentFrom 1 ((s.cfg.cmdAddrBase ||| pos) :: buffer.take len)).map
      (fun x => ackOf x.2) = (List.range (len + 2)).map fun k => decide (s.sampleAt k = .low) := by
    have joined := s.sentFrom_acks 0 (s.cfg.cmdData :: (s.cfg.cmdAddrBase ||| pos) :: buffer.take len)
    simpa [State.sentFrom_cons, sent_length] using joined
  refine ⟨_, State.setSegments_pass hf hp hr, ?_⟩
  simp only [State.sendSegments_eq, dataCommand, addressCommand, acks, State.lastAckOf_sentFrom_cons, sent_length,
    State.reply, ← hp, Nat.add_comm 1]
  rfl

/-- In IDLE the id that SETSEGMENTS runs under is not read: only a fault records it. -/
theorem State.setSegments_idle_eq {s : State} (op op' : Byte) (buffer : List Byte) (len : Nat) (pos : Byte)
    (hf : s.fault = none) (hp : s.phase = .idle) :
    s.setSegments op buffer len pos = s.setSegments op' buffer len pos := by
  rw [State.setSegments, State.setSegments, State.check_inIdle hf hp, State.check_inIdle hf hp]

/-- The host was told last what was replied last. -/
@[simp] theorem lastReply_reply (r : Reply) (s : State) : lastReply (s.reply r) = some r := by
  simp [lastReply]

/-- In IDLE an operation that sends a buffer of exactly `len` bytes ends as SETSEGMENTS of that buffer does, and with
acknowledgements inside the display. -/
theorem State.setSegments_as_instruction {s : State} (op : Byte) {buffer : List Byte} {len pos : Byte}
    (hf : s.fault = none) (hp : s.phase = .idle) (hb : buffer.length = len.toNat) :
    ∃ t, s.setSegments op buffer len.toNat pos = .next t ∧ exec (.setSegments buffer len pos) s = .next t ∧
      (pos.toNat < s.cfg.digits → len.toNat ≤ s.cfg.digits - pos.toNat →
        ∃ acks, lastReply t = some (.ok (.acks acks))) := by
  obtain ⟨t, ht⟩ := State.setSegments_answers op buffer len.toNat pos hf
  refine ⟨t, ht, (State.setSegments_idle_eq _ op buffer len.toNat pos hf hp).trans ht, fun hpos hlen => ?_⟩
  cases (State.setSegments_pass hf hp (outOfRange_eq_false hpos hlen hb.ge)).symm.trans ht
  exact ⟨_, lastReply_reply ..⟩

/-! ### The operands -/

/-- The stored level is the operand's low three bits (30_encoding.md R85). -/
theorem brightnessLevel_eq_extractLsb' (level : Byte) : brightnessLevel level = level.extractLsb' 0 3 := by
  have low_bits : (0x07 : Byte).setWidth 3 = BitVec.allOnes 3 := by decide
  rw [brightnessLevel, BitVec.setWidth_and, low_bits, BitVec.and_allOnes, BitVec.setWidth_eq_extractLsb' (by decide)]

/-- ENCODEDECIMAL's result has `len` slots. -/
theorem formatDecimal_length (c : Config) (v : BitVec 32) (lz : Bool) (len : Nat) :
    (formatDecimal c v lz len).length = len := by
  rw [formatDecimal, List.length_map, decimalChars_length]

/-- ENCODEDECIMALWITHDOT's result has `len` slots: dots add none. -/
theorem formatDecimalWithDot_length (c : Config) (v : BitVec 32) (m : Byte) (lz : Bool) (len : Nat) :
    (formatDecimalWithDot c v m lz len).length = len := by
  rw [formatDecimalWithDot, applyDots_length, formatDecimal_length]

/-! ### The statements -/

/-- Settles O33: the check raises outside IDLE; in IDLE the range check decides between ERR_RANGE and the two frames. -/
theorem setSegmentsSendsTheBytes : Obligations.SetSegmentsSendsTheBytes := by
  unfold Obligations.SetSegmentsSendsTheBytes
  intro buffer len pos
  obtain ⟨stops, raises⟩ := faults_of_check_inIdle (exec_setSegments buffer len pos)
  refine ⟨decodeRecord_setSegments len pos, stops,
    fun s hf => ⟨fun hp hpos hlen hn => ?_, fun hp hr => ?_, raises s hf⟩⟩
  · obtain ⟨t, ht, hs⟩ := State.setSegments_sends opSetSegments hf hp (outOfRange_eq_false hpos hlen hn)
    exact ⟨t, _, ht, rfl, hs⟩
  · exact State.setSegments_errRange hf hp (outOfRange_iff.mpr hr)

/-- Settles O34: the four operations with a range check are SETSEGMENTS under their ids, of a formatted buffer of the
length asked for. -/
theorem outOfRangeIsRejected : Obligations.OutOfRangeIsRejected := by
  unfold Obligations.OutOfRangeIsRejected
  intro i s n len pos hi hf hp hr
  have out := outOfRange_iff.mpr hr
  cases i with
  | setSegments buffer length position =>
    cases hi
    exact State.setSegments_errRange hf hp out
  | displayDecimal v lz length position =>
    cases hi
    exact State.setSegments_errRange hf hp (by rwa [formatDecimal_length])
  | displayDecimalWDot v m lz length position =>
    cases hi
    exact State.setSegments_errRange hf hp (by rwa [formatDecimalWithDot_length])
  | displayString t m length position =>
    cases hi
    exact State.setSegments_errRange hf hp (by rwa [formatString_length])
  | _ => cases hi

/-- Settles O35: DISPLAYCLEAR is SETSEGMENTS of DIGITS blanks at position 0, which is in range. -/
theorem displayClearBlanksEveryDigit : Obligations.DisplayClearBlanksEveryDigit := by
  unfold Obligations.DisplayClearBlanksEveryDigit
  obtain ⟨stops, raises⟩ := faults_of_check_inIdle exec_displayClear
  refine ⟨rfl, stops, fun s hf => ⟨fun hp hd => ?_, raises s hf⟩⟩
  have in_range : outOfRange s.cfg (List.replicate s.cfg.digits (0x00 : Byte)).length s.cfg.digits (0 : Byte).toNat =
      false :=
    outOfRange_eq_false hd le_rfl (List.length_replicate ..).ge
  have from_zero : s.cfg.cmdAddrBase ||| (0 : Byte) = s.cfg.cmdAddrBase := BitVec.or_zero
  have sends := State.setSegments_sends opDisplayClear hf hp in_range
  rwa [List.take_replicate, min_self, from_zero] at sends

/-- Settles O36: in IDLE SETBRIGHTNESS stores its level's low three bits and sends one frame; elsewhere its check
raises. -/
theorem setBrightnessStoresAndSends : Obligations.SetBrightnessStoresAndSends := by
  unfold Obligations.SetBrightnessStoresAndSends
  have faults level on := faults_of_check_inIdle (exec_setBrightness level on)
  refine ⟨fun level on => ⟨decodeRecord_setBrightness level on, (faults level on).1⟩,
    fun s level on hf => ⟨fun hp => ?_, (faults level on).2 s hf⟩⟩
  refine ⟨_, (exec_setBrightness level on s).trans (State.check_inIdle hf hp), ?_⟩
  simp only [State.sendBrightness_eq, displayCommand_eq, brightnessLevel_eq_extractLsb', ackOf_eq_decide,
    State.reply, ← hp]

/-- Settles O37: each formatting operation is SETSEGMENTS, under its own id, of the buffer its formatter answers, which
has exactly the length asked for. -/
theorem formattingOperationsCompose : Obligations.FormattingOperationsCompose := by
  unfold Obligations.FormattingOperationsCompose
  refine ⟨?_, fun s len pos hf hp => ⟨fun v lz => ?_, fun v m lz => ?_, fun text m => ?_⟩⟩
  · rintro i s (⟨v, lz, len, pos, rfl⟩ | ⟨v, m, lz, len, pos, rfl⟩ | ⟨t, m, len, pos, rfl⟩)
    · exact (faults_of_check_inIdle (exec_displayDecimal v lz len pos)).imp_right (· s)
    · exact (faults_of_check_inIdle (exec_displayDecimalWDot v m lz len pos)).imp_right (· s)
    · exact (faults_of_check_inIdle (exec_displayString t m len pos)).imp_right (· s)
  · have filled := formatDecimal_length s.cfg v lz len.toNat
    obtain ⟨t, composed⟩ := State.setSegments_as_instruction (pos := pos) opDisplayDecimal hf hp filled
    exact ⟨_, t, decodeRecord_displayDecimal v lz len pos, (exec_encodeDecimal_answersSlots v lz len).2 s hf, filled,
      composed⟩
  · have filled := formatDecimalWithDot_length s.cfg v m lz len.toNat
    obtain ⟨t, composed⟩ := State.setSegments_as_instruction (pos := pos) opDisplayDecimalWDot hf hp filled
    exact ⟨_, t, decodeRecord_displayDecimalWDot v m lz len pos,
      (exec_encodeDecimalWithDot_answersSlots v m lz len).2 s hf, filled, composed⟩
  · have filled := formatString_length s.cfg text m len.toNat
    obtain ⟨t, composed⟩ := State.setSegments_as_instruction (pos := pos) opDisplayString hf hp filled
    exact ⟨_, t, decodeRecord_displayString m len pos, (exec_encodeString_answersSlots text m len pos).2 s hf, filled,
      composed⟩

end Machine

end Sys2Proof
end

section
/-! What an acknowledgement can change (44_controller.md R185): the state and the outcome without what the
acknowledgements write, that the one determines the other through each shared operation, and the statement. -/

namespace Sys2Proof.Machine

open Sys2Proof.Claims

/-! ### A state and an outcome without the acknowledgements -/

/-- The state without what an acknowledgement writes: the last acknowledgement, the sampled levels of the trace, the
receiver, the replies and the samples to come are blanked. -/
def State.ackless (s : State) : State :=
  { s with
    lastAck := none, trace := s.trace.map unsampled, rx := ⟨none, .unknown⟩, replies := [], samples := [] }

/-- The outcome without what an acknowledgement writes. -/
def acklessResult : Result → Result
  | .next t => .next t.ackless
  | .fault f => .fault f
  | .refused r => .refused r

/-- An operation whose outcome, but for what an acknowledgement writes, is determined by the state without it. -/
def AckBlind (go : State → Result) : Prop :=
  ∀ s, acklessResult (go s) = acklessResult (go s.ackless)

/-- States alike without the acknowledgements differ as R185 allows. -/
theorem State.eq_of_ackless_eq {t u : State} (h : u.ackless = t.ackless) :
    u.trace.map unsampled = t.trace.map unsampled ∧
      u = { t with
        lastAck := u.lastAck, trace := u.trace, rx := u.rx, replies := u.replies, samples := u.samples } := by
  cases t
  cases u
  simp_all [State.ackless]

/-- Where an outcome alike is a next state, so is this one, and the states are alike. -/
theorem next_of_acklessResult_eq {r : Result} {t : State} (h : acklessResult r = .next t.ackless) :
    ∃ u, r = .next u ∧ u.ackless = t.ackless := by
  cases r with
  | next u => exact ⟨u, rfl, by simpa [acklessResult] using h⟩
  | fault _ => cases h
  | refused _ => cases h

/-! ### The actions without their levels -/

@[simp] theorem unsampled_unsampled (a : Action) : unsampled (unsampled a) = unsampled a := by
  cases a <;> rfl

@[simp] theorem startActions_map_unsampled (us : Nat) : (startActions us).map unsampled = startActions us := rfl

@[simp] theorem stopActions_map_unsampled (us : Nat) : (stopActions us).map unsampled = stopActions us := rfl

@[simp] theorem byteActions_map_unsampled (us : Nat) (b : Byte) (a : Level) :
    (byteActions us b a).map unsampled = byteActions us b .low := rfl

/-- A transaction's actions without their levels are given by its bytes. -/
@[simp] theorem frameActions_map_unsampled (us : Nat) (sent : List (Byte × Level)) :
    (frameActions us sent).map unsampled = frameActions us (sent.map fun x => (x.1, .low)) := by
  simp [frameActions, List.map_flatMap, List.flatMap_map]

/-- The bytes of a sent sequence do not depend on the samples. -/
@[simp] theorem State.sentFrom_map_low (s : State) (k : Nat) (bytes : List Byte) :
    (s.sentFrom k bytes).map (fun x => (x.1, Level.low)) = bytes.map fun b => (b, .low) := by
  induction bytes generalizing k with
  | nil => rfl
  | cons b bs ih => simp [State.sentFrom_cons, ih]

/-! ### The shared operations -/

@[simp] theorem State.ackless_ackless (s : State) : s.ackless.ackless = s.ackless := by
  simp [State.ackless]

/-- What an operation answers is no matter: a body is blind if the state it leaves is. -/
theorem ackBlind_next_reply {f : State → State} (r : State → Reply) (h : ∀ s, (f s).ackless = (f s.ackless).ackless) :
    AckBlind fun s => .next ((f s).reply (r s)) :=
  fun s => congrArg Host.Outcome.next (h s)

/-- An answer alone is blind. -/
theorem ackBlind_answer (r : State → Reply) : AckBlind fun s => .next (s.reply (r s)) :=
  ackBlind_next_reply (f := id) r fun s => s.ackless_ackless.symm

/-- A raise is blind: it records its code and its id. -/
theorem ackBlind_raise (code : FaultCode) (op : Byte) : AckBlind fun s => .next (s.raise code op) :=
  ackBlind_next_reply (f := fun s => { s with fault := some ⟨code, op⟩ }) (fun _ => .fault code) fun s =>
    congrArg (fun u : State => { u with fault := some ⟨code, op⟩ }) s.ackless_ackless.symm

/-- A choice between blind bodies is blind where no acknowledgement enters the condition. -/
theorem AckBlind.ite {c : State → Prop} [DecidablePred c] {yes no : State → Result} (hc : ∀ s, c s.ackless ↔ c s)
    (hy : AckBlind yes) (hn : AckBlind no) : AckBlind fun s => if c s then yes s else no s := by
  intro s
  by_cases h : c s
  · simp only [h, (hc s).mpr h, if_true]
    exact hy s
  · simp only [h, mt (hc s).mp h, if_false]
    exact hn s

/-- An operation that goes on to a blind body is blind: a recorded fault is no acknowledgement. -/
theorem AckBlind.running {go : State → Result} (h : AckBlind go) : AckBlind fun s => s.running go := by
  intro s
  have kept : s.ackless.fault = s.fault := rfl
  cases hf : s.fault with
  | none => simpa only [State.running_of_none hf, State.running_of_none (kept.trans hf)] using h s
  | some r => simp only [State.running_of_some hf, State.running_of_some (kept.trans hf)]

/-- A checked operation is blind if its body is: the check reads the fault and the phase. -/
theorem AckBlind.check {op : Byte} {accepts : Phase → Bool} {go : State → Result} (h : AckBlind go) :
    AckBlind fun s => s.check op accepts go :=
  .running <| .ite (c := fun s => s.phase = .uninit ∨ s.phase = .closed) (fun _ => .rfl) (ackBlind_raise _ _) <|
    .ite (c := fun s => accepts s.phase = true) (fun _ => .rfl) h (ackBlind_raise _ _)

/-- So are DISPLAYBEGIN and DISPLAYCLOSE. -/
theorem AckBlind.checkOutsideFrame {op : Byte} {go : State → Result} (h : AckBlind go) :
    AckBlind fun s => s.checkOutsideFrame op go :=
  .running <| .ite (c := fun s => s.phase = .started ∨ s.phase = .writing) (fun _ => .rfl) (ackBlind_raise _ _) h

/-- WRITEBYTE's sequence is blind: a sample fills in a level and nothing else (R111). -/
theorem State.sendByte_ackless (b : Byte) (s : State) : (s.sendByte b).ackless = (s.ackless.sendByte b).ackless := by
  simp [State.sendByte_eq, State.ackless]

/-- A wire byte is blind, as WRITEBYTE is. -/
theorem ackBlind_sendWire (b : Byte) : AckBlind fun s => s.sendWire b :=
  .check <| ackBlind_next_reply _ (State.sendByte_ackless b)

/-- SETSEGMENTS is blind: its range check reads the configuration, and its frames are given by its bytes. -/
theorem ackBlind_setSegments (op : Byte) (buffer : List Byte) (len : Nat) (pos : Byte) :
    AckBlind fun s => s.setSegments op buffer len pos := by
  refine .check <| .ite (fun _ => .rfl) (ackBlind_answer _) <|
    ackBlind_next_reply (f := fun s => (s.sendSegments (buffer.take len) pos).2) _ fun s => ?_
  simp [State.sendSegments_eq, State.ackless]

/-- SETBRIGHTNESS's sequence is blind. -/
theorem State.sendBrightness_ackless (level : Byte) (on : Bool) (s : State) :
    (s.sendBrightness level on).2.ackless = (s.ackless.sendBrightness level on).2.ackless := by
  simp [State.sendBrightness_eq, State.ackless]

/-! ### The statement -/

/-- Every instruction is blind to the acknowledgements. -/
theorem ackBlind_exec (i : Instr) : AckBlind (exec i) := by
  cases i with
  | start => exact .check <| ackBlind_next_reply _ fun s => by simp [State.startCondition_eq, State.ackless]
  | stop => exact .check <| ackBlind_next_reply _ fun s => by simp [State.stopCondition_eq, State.ackless]
  | bitDelay => exact .running <| ackBlind_next_reply _ fun s => by simp [State.ackless]
  | writeByte b => exact ackBlind_sendWire b
  | encData | encAddr | encDisp | encodeCharacter | encodeDecimal | encodeDecimalWithDot | encodeString =>
    exact .running (ackBlind_answer _)
  | displayBegin =>
    exact .checkOutsideFrame <| ackBlind_next_reply
      (f := fun s => { (s.setClk .high).setDio .high with phase := .idle }) _ fun s => by simp [State.ackless]
  | displayClose =>
    exact .checkOutsideFrame <| ackBlind_next_reply
      (f := fun s => { s.releaseDio.releaseClk with phase := .closed }) _ fun s => by simp [State.ackless]
  | setBrightness level on => exact .check <| ackBlind_next_reply _ (State.sendBrightness_ackless level on)
  | setSegments | displayClear | displayDecimal | displayDecimalWDot | displayString =>
    exact fun s => ackBlind_setSegments _ _ _ _ s
  | wireCmdData | wireCmdAddr | wireCmdDisp | wireSegment => exact fun s => ackBlind_sendWire _ s

/-- Settles O42: other levels to come leave the same state without the acknowledgements, and so the same outcome
without them. -/
theorem acksNeverChangeControlFlow : Obligations.AcksNeverChangeControlFlow := by
  unfold Obligations.AcksNeverChangeControlFlow
  intro i s levels t h
  have alike : acklessResult (exec i { s with samples := levels }) = .next t.ackless := by
    have same := (ackBlind_exec i { s with samples := levels }).trans (ackBlind_exec i s).symm
    rwa [h] at same
  obtain ⟨u, hu, hut⟩ := next_of_acklessResult_eq alike
  exact ⟨u, hu, State.eq_of_ackless_eq hut⟩

end Sys2Proof.Machine
end

section
/-! The exceptions (60_exceptions.md): what an instruction that records a fault has done, NOT_OPEN (R202) and FRAMING
(R203) where the phase table has no transition, the stop on a recorded fault (R206), the order of the conditions (R207),
and the refusal of an illegal construction (R209). -/

namespace Sys2Proof

namespace Machine

open Sys2Proof.Claims

/-! ### An instruction that records a fault -/

/-- Of what an instruction can have done, only a raise records a fault: NOT_OPEN where the bus is not open, FRAMING
where it is, and FRAMING of anything but a primitive inside a transaction only. -/
theorem exec_recorded {i : Instr} {s t : State} {r : FaultRecord} (h : exec i s = .next t) (hr : t.fault = some r) :
    t = s.raise r.code (recordedId i) ∧
      (r.code = .notOpen ∧ NotOpen s ∨ r.code = .framing ∧ ¬NotOpen s) ∧
      (r.code = .framing → isPrimitive i = false → InTransaction s) := by
  obtain ⟨hf, hd⟩ := exec_next h
  cases hd with
  | raised code hp hi => cases hr; exact ⟨rfl, hp, hi⟩
  | answered | rejected | delayed | begun | closed => cases hf.symm.trans hr
  | started => simp [State.startCondition_eq, hf] at hr
  | stopped => simp [State.stopCondition_eq, hf] at hr
  | sent => simp [State.sendByte_eq, hf] at hr
  | sentSegments => simp [State.sendSegments_eq, hf] at hr
  | sentBrightness => simp [State.sendBrightness_eq, hf] at hr

/-- FRAMING is recorded only where the bus is open. -/
theorem not_notOpen_of_recorded_framing {i : Instr} {s t : State} {r : FaultRecord} (h : exec i s = .next t)
    (hr : t.fault = some r) (hc : r.code = .framing) : ¬NotOpen s := by
  obtain ⟨-, ⟨hn, -⟩ | ⟨-, hn⟩, -⟩ := exec_recorded h hr
  · cases hc.symm.trans hn
  · exact hn

/-- NOT_OPEN is recorded only where the bus is not open. -/
theorem notOpen_of_recorded_notOpen {i : Instr} {s t : State} {r : FaultRecord} (h : exec i s = .next t)
    (hr : t.fault = some r) (hc : r.code = .notOpen) : NotOpen s := by
  obtain ⟨-, ⟨-, hn⟩ | ⟨hn, -⟩, -⟩ := exec_recorded h hr
  · exact hn
  · cases hc.symm.trans hn

/-! ### Which fault is raised where the table has no transition -/

/-- Where the bus is not open, an instruction without a transition raises NOT_OPEN. -/
theorem raises_notOpen_of_no_transition {i : Instr} {s : State} (hf : s.fault = none) (hs : NotOpen s)
    (hn : ∀ q, ¬Transition s.phase i q) : Raises i s .notOpen := by
  obtain hr | ⟨t, r, h, hr, hc, -⟩ := raises_of_no_transition hf hn
  · exact hr
  · exact absurd hs (not_notOpen_of_recorded_framing h hr hc)

/-- Where the bus is open, an instruction without a transition raises FRAMING. -/
theorem raises_framing_of_no_transition {i : Instr} {s : State} (hf : s.fault = none) (hs : ¬NotOpen s)
    (hn : ∀ q, ¬Transition s.phase i q) : Raises i s .framing := by
  obtain ⟨t, r, h, hr, hc, -⟩ | hr := raises_of_no_transition hf hn
  · exact absurd (notOpen_of_recorded_notOpen h hr hc) hs
  · exact hr

/-- The operations of R202 have no transition from UNINIT and none from CLOSED. -/
theorem no_transition_of_notOpen {i : Instr} {s : State} (hi : needsOpenLines i = true) (hs : NotOpen s) (q : Phase) :
    ¬Transition s.phase i q := by
  cases i with
  | start | stop | writeByte | setSegments | displayClear | setBrightness | displayDecimal | displayDecimalWDot
  | displayString => obtain hp | hp := hs <;> simp [Transition, hp]
  | _ => cases hi

/-- The operations of R203 have no transition from the phases named there. -/
theorem no_transition_of_breaksFraming {i : Instr} {s : State} (h : BreaksFraming i s) (q : Phase) :
    ¬Transition s.phase i q := by
  obtain ⟨hi, hp⟩ | ⟨hi, hp⟩ := h
  · obtain rfl | rfl | rfl | hi := hi
    · obtain hp | hp := hp <;> simp [Transition, hp]
    · obtain hp | hp := hp <;> simp [Transition, hp]
    · obtain hp | hp := hp <;> simp [Transition, hp]
    · rw [transition_iff_of_transmits hi]
      obtain hp | hp := hp <;> simp [hp]
  · obtain rfl | ⟨byte, rfl⟩ := hi <;> simp [Transition, hp]

/-- Where the bus is open, the phase is IDLE or one inside a transaction. -/
theorem idle_or_inTransaction_of_open {s : State} (hs : ¬NotOpen s) : s.phase = .idle ∨ InTransaction s := by
  unfold NotOpen at hs
  unfold InTransaction
  cases hp : s.phase <;> simp [hp] at hs ⊢

/-- The operations of R203 are called where the bus is open. -/
theorem not_notOpen_of_breaksFraming {i : Instr} {s : State} (h : BreaksFraming i s) : ¬NotOpen s := by
  obtain ⟨-, hp⟩ | ⟨-, hp⟩ := h
  · exact not_notOpen_of_inTransaction hp
  · exact not_notOpen_of_idle hp

/-- Settles O45: the operations of R202 have no transition where the bus is not open. -/
theorem notOpenUntilDisplayBegin : Obligations.NotOpenUntilDisplayBegin := by
  unfold Obligations.NotOpenUntilDisplayBegin
  exact fun i s hi hf hs => raises_notOpen_of_no_transition hf hs (no_transition_of_notOpen hi hs)

/-! ### Where FRAMING is raised -/

/-- STOP's and WRITEBYTE's check accepts every phase inside a transaction. -/
theorem inFrame_of_inTransaction {s : State} (hp : InTransaction s) : inFrame s.phase = true := by
  obtain hp | hp := hp <;> simp [inFrame, hp]

/-- An operation that goes on without a phase check records no fault. -/
theorem State.running_records_none {s t : State} {go : State → State} (h : (s.running fun s => .next (go s)) = .next t)
    (keeps : (go s).fault = s.fault) : t.fault = none := by
  obtain ⟨hf, h⟩ := State.running_next h
  cases h
  exact keeps.trans hf

/-- A checked operation whose body records no fault records FRAMING only in a phase that it does not accept. -/
theorem State.check_refuses_of_framing {s t : State} {op : Byte} {accepts : Phase → Bool} {go : State → State}
    {r : FaultRecord} (h : (s.check op accepts fun s => .next (go s)) = .next t) (keeps : (go s).fault = s.fault)
    (hr : t.fault = some r) (hc : r.code = .framing) : accepts s.phase = false := by
  obtain ⟨hf, ⟨-, rfl⟩ | ⟨-, -, ha, -⟩ | ⟨-, -, -, h⟩⟩ := State.check_next h
  · cases hr
    cases hc
  · exact ha
  · cases h
    cases hf.symm.trans (keeps.symm.trans hr)

/-- An operation that records FRAMING is one of R203's, in a phase named there. -/
theorem breaksFraming_of_recorded {i : Instr} {s t : State} {r : FaultRecord} (ho : i.isOperation = true)
    (h : exec i s = .next t) (hr : t.fault = some r) (hc : r.code = .framing) : BreaksFraming i s := by
  have phase := idle_or_inTransaction_of_open (not_notOpen_of_recorded_framing h hr hc)
  obtain ⟨-, -, inside⟩ := exec_recorded h hr
  cases i with
  | start =>
    have refused := State.check_refuses_of_framing (exec_start s ▸ h) (by simp [State.startCondition_eq]) hr hc
    exact .inl ⟨.inl rfl, phase.resolve_left fun hp => by simp [inIdle, hp] at refused⟩
  | stop =>
    have refused := State.check_refuses_of_framing (exec_stop s ▸ h) (by simp [State.stopCondition_eq]) hr hc
    exact .inr ⟨.inl rfl, phase.resolve_right fun hp => by simp [inFrame_of_inTransaction hp] at refused⟩
  | writeByte b =>
    have refused := State.check_refuses_of_framing (exec_writeByte b s ▸ h) (by simp [State.sendByte_eq]) hr hc
    exact .inr ⟨.inr ⟨b, rfl⟩, phase.resolve_right fun hp => by simp [inFrame_of_inTransaction hp] at refused⟩
  | displayBegin => exact .inl ⟨.inr (.inl rfl), inside hc rfl⟩
  | displayClose => exact .inl ⟨.inr (.inr (.inl rfl)), inside hc rfl⟩
  | setSegments | displayClear | setBrightness | displayDecimal | displayDecimalWDot | displayString =>
    exact .inl ⟨.inr (.inr (.inr rfl)), inside hc rfl⟩
  | bitDelay | encData | encAddr | encDisp | encodeCharacter | encodeDecimal | encodeDecimalWithDot
  | encodeString =>
    simp only [exec_bitDelay, exec_encData, exec_encAddr, exec_encDisp, exec_encodeCharacter, exec_encodeDecimal,
      exec_encodeDecimalWithDot, exec_encodeString] at h
    cases hr.symm.trans (State.running_records_none h rfl)
  | _ => cases ho

/-- Outside a transaction only a primitive has a transition into one. -/
theorem not_inTransaction_of_transition {i : Instr} {s t : State} (hi : isPrimitive i = false) (hs : ¬InTransaction s)
    (ht : Transition s.phase i t.phase) : ¬InTransaction t := by
  cases i with
  | displayBegin | displayClose | setSegments | displayClear | setBrightness | displayDecimal | displayDecimalWDot
  | displayString =>
    obtain ⟨-, hq⟩ := ht
    simp [InTransaction, hq]
  | encData | encAddr | encDisp | encodeCharacter | encodeDecimal | encodeDecimalWithDot | encodeString =>
    have kept : t.phase = s.phase := ht
    rwa [InTransaction, kept]
  | _ => cases hi

/-- Settles O46: the operations of R203 have no transition there; FRAMING is recorded only by one of them there; and an
instruction other than a primitive raises or makes a transition, neither of which opens a transaction. -/
theorem framingOutsideTheStateMachine : Obligations.FramingOutsideTheStateMachine := by
  unfold Obligations.FramingOutsideTheStateMachine
  refine ⟨fun i s hf hb => ?_, fun i s t r ho h hr hc => breaksFraming_of_recorded ho h hr hc,
    fun i s t hi hs h => ⟨?_, fun r hr => ?_⟩⟩
  · exact raises_framing_of_no_transition hf (not_notOpen_of_breaksFraming hb) (no_transition_of_breaksFraming hb)
  · obtain ⟨code, rfl⟩ | ⟨-, ht⟩ := exec_raised_or_transition h
    · exact hs
    · exact not_inTransaction_of_transition hi hs ht
  · obtain ⟨-, ⟨hc, -⟩ | ⟨hc, -⟩, inside⟩ := exec_recorded h hr
    · exact hc
    · exact absurd (inside hc hi) hs

/-! ### The stop on a recorded fault -/

/-- A checked operation stops on a recorded fault: the check looks for one first. -/
theorem State.check_of_some {s : State} {op : Byte} {accepts : Phase → Bool} {go : State → Result} {r : FaultRecord}
    (hr : s.fault = some r) : s.check op accepts go = .fault (.stopped r) :=
  State.running_of_some hr

/-- So do DISPLAYBEGIN and DISPLAYCLOSE. -/
theorem State.checkOutsideFrame_of_some {s : State} {op : Byte} {go : State → Result} {r : FaultRecord}
    (hr : s.fault = some r) : s.checkOutsideFrame op go = .fault (.stopped r) :=
  State.running_of_some hr

/-- So does SETSEGMENTS, under any operation's id. -/
theorem State.setSegments_of_some {s : State} (op : Byte) (buffer : List Byte) (len : Nat) (pos : Byte)
    {r : FaultRecord} (hr : s.fault = some r) : s.setSegments op buffer len pos = .fault (.stopped r) := by
  rw [State.setSegments, State.check_of_some hr]

/-- So does a wire byte. -/
theorem State.sendWire_of_some {s : State} (b : Byte) {r : FaultRecord} (hr : s.fault = some r) :
    s.sendWire b = .fault (.stopped r) := by
  rw [State.sendWire, State.check_of_some hr]

/-- Every instruction looks for a recorded fault first, and stops on one. -/
theorem exec_stopsOnFault (i : Instr) : StopsOnFault i := by
  intro s r hr
  cases i with
  | start | stop | writeByte | setBrightness =>
    simp only [exec_start, exec_stop, exec_writeByte, exec_setBrightness]
    exact State.check_of_some hr
  | displayBegin | displayClose =>
    simp only [exec_displayBegin, exec_displayClose]
    exact State.checkOutsideFrame_of_some hr
  | setSegments | displayClear | displayDecimal | displayDecimalWDot | displayString =>
    exact State.setSegments_of_some _ _ _ _ hr
  | wireCmdData | wireCmdAddr | wireCmdDisp | wireSegment => exact State.sendWire_of_some _ hr
  | bitDelay | encData | encAddr | encDisp | encodeCharacter | encodeDecimal | encodeDecimalWithDot
  | encodeString =>
    simp only [exec_bitDelay, exec_encData, exec_encAddr, exec_encDisp, exec_encodeCharacter, exec_encodeDecimal,
      exec_encodeDecimalWithDot, exec_encodeString]
    exact State.running_of_some hr

/-- And so does every step, whatever the host issues. -/
theorem step_of_recorded {s : State} {r : FaultRecord} (hr : s.fault = some r) : step s = .fault (.stopped r) := by
  simp only [step, hr]

/-- Settles O48: an instruction that records a fault has only raised it; with one recorded no instruction and no step
goes on. -/
theorem faultStopsTheBlock : Obligations.FaultStopsTheBlock := by
  unfold Obligations.FaultStopsTheBlock
  refine ⟨fun i s t r h hr => ?_, exec_stopsOnFault, fun s r => step_of_recorded⟩
  obtain ⟨rfl, -⟩ := exec_recorded h hr
  rw [← hr]
  rfl

/-! ### The order of the conditions -/

/-- A range-checked operation is SETSEGMENTS, under an id of its own, of a buffer of the checked length. -/
theorem exec_eq_setSegments_of_rangeOf {i : Instr} {n len pos : Nat} (hi : rangeOf i = some (n, len, pos)) (s : State) :
    ∃ (op : Byte) (buffer : List Byte) (position : Byte), buffer.length = n ∧ position.toNat = pos ∧
      exec i s = s.setSegments op buffer len position := by
  cases i with
  | setSegments buffer length position => cases hi; exact ⟨_, buffer, position, rfl, rfl, rfl⟩
  | displayDecimal v lz length position =>
    cases hi
    exact ⟨_, _, position, formatDecimal_length s.cfg v lz length.toNat, rfl, rfl⟩
  | displayDecimalWDot v m lz length position =>
    cases hi
    exact ⟨_, _, position, formatDecimalWithDot_length s.cfg v m lz length.toNat, rfl, rfl⟩
  | displayString text m length position =>
    cases hi
    exact ⟨_, _, position, formatString_length s.cfg text m length.toNat, rfl, rfl⟩
  | _ => cases hi

/-- Of a raise the host is told the fault. -/
@[simp] theorem lastReply_raise (code : FaultCode) (op : Byte) (s : State) :
    lastReply (s.raise code op) = some (.fault code) := lastReply_reply ..

/-- What SETSEGMENTS answers: the first of NOT_OPEN, FRAMING and ERR_RANGE whose condition holds, else
acknowledgements. -/
theorem State.setSegments_lastReply {s : State} (op : Byte) (buffer : List Byte) (len : Nat) (pos : Byte)
    (hf : s.fault = none) : ∃ t, s.setSegments op buffer len pos = .next t ∧
      if s.phase = .uninit ∨ s.phase = .closed then lastReply t = some (.fault .notOpen)
      else if s.phase ≠ .idle then lastReply t = some (.fault .framing)
      else if s.cfg.digits ≤ pos.toNat ∨ s.cfg.digits - pos.toNat < len ∨ buffer.length < len then
        lastReply t = some .errRange
      else ∃ acks, lastReply t = some (.ok (.acks acks)) := by
  obtain ⟨t, ht⟩ := State.setSegments_answers op buffer len pos hf
  refine ⟨t, ht, ?_⟩
  obtain ⟨-, ⟨hp, rfl⟩ | ⟨hp, rfl⟩ | ⟨hp, hr, rfl⟩ | ⟨hp, hr, rfl⟩⟩ := State.setSegments_next ht
  · simp [hp]
  · obtain hp | hp := hp <;> simp [hp]
  · simp [hp, ← outOfRange_iff, hr]
  · simp [hp, ← outOfRange_iff, hr]

/-- Whatever an instruction has done, it added exactly one reply. -/
theorem Did.replies {i : Instr} {s t : State} (h : Did i s t) : ∃ r, t.replies = s.replies ++ [r] := by
  cases h with
  | raised | answered | rejected | delayed | begun | closed => exact ⟨_, rfl⟩
  | started => exact ⟨_, by rw [State.reply_replies, State.startCondition_eq]⟩
  | stopped => exact ⟨_, by rw [State.reply_replies, State.stopCondition_eq]⟩
  | sent => exact ⟨_, by rw [State.reply_replies, State.sendByte_eq]⟩
  | sentSegments => exact ⟨_, by rw [State.reply_replies, State.sendSegments_eq]⟩
  | sentBrightness => exact ⟨_, by rw [State.reply_replies, State.sendBrightness_eq]⟩

/-- Settles O49: a recorded fault stops every instruction; R202 gives NOT_OPEN; the range-checked operations answer as
SETSEGMENTS does; and each instruction adds one reply. -/
theorem earlierConditionWins : Obligations.EarlierConditionWins := by
  unfold Obligations.EarlierConditionWins
  refine ⟨exec_stopsOnFault, notOpenUntilDisplayBegin, fun i s n len pos hi hf => ?_, fun i s t h => ?_⟩
  · obtain ⟨op, buffer, position, rfl, rfl, he⟩ := exec_eq_setSegments_of_rangeOf hi s
    rw [he]
    exact State.setSegments_lastReply op buffer len position hf
  · exact (exec_next h).2.replies

end Machine

/-! ### Construction -/

open Sys2Proof.Claims

/-- The bytes of one bit are the eight powers of two. -/
theorem oneBit_iff {b : Byte} : oneBit b = true ↔ ∃ k < 8, b = BitVec.twoPow 8 k := by
  simp [oneBit, BitVec.twoPow]

/-- The command parameters are legal where none of R131's five constraints is broken. -/
theorem Config.commandsLegal_iff {c : Config} : c.commandsLegal = true ↔
    c.cmdAddrBase &&& 0x07 = 0 ∧ c.cmdDispBase &&& 0x07 = 0 ∧ (∃ k < 8, c.dispOnBit = BitVec.twoPow 8 k) ∧
      c.dispOnBit &&& 0x07 = 0 ∧ c.dispOnBit &&& c.cmdDispBase = 0 := by
  simp [Config.commandsLegal, oneBit_iff, and_assoc]

/-- A configuration is legal iff it is not illegal in the words of R209 and R131 and its GLYPH holds the fixed
entries. -/
theorem Config.legal_iff {c : Config} : c.Legal ↔ ¬illegal c ∧ c.glyphLegal = true := by
  simp [Config.Legal, Config.legal, Config.commandsLegal_iff, illegal, and_assoc, Nat.one_le_iff_ne_zero]

namespace Machine

/-- Settles O51: construction gives a block for a legal configuration only. -/
theorem illegalConfigurationsRefused : Obligations.IllegalConfigurationsRefused := by
  unfold Obligations.IllegalConfigurationsRefused
  intro c h
  exact if_neg fun legal => (Config.legal_iff.mp legal).1 h

end Machine

end Sys2Proof
end

section
/-! What every instruction keeps: each is made of a few sequences of the shared operations, so that a predicate kept by
those is kept by every instruction and every step. The invariants of single fields over them: the lines by phase
(10_state.md R28), the display memory (20_memory.md R52), the configuration and the trace (10_state.md R22, R32). -/

namespace Sys2Proof.Machine

open Sys2Proof.Claims

/-! ### The induction over what instructions are made of -/

/-- A predicate kept by every sequence that instructions are made of, each from the phases in which it is run. -/
structure Kept (P : State → Prop) : Prop where
  told : ∀ s bright fault replies, P s → P { s with bright := bright, fault := fault, replies := replies }
  delay : ∀ s, P s → P s.delay
  start : ∀ s, s.phase = .idle → P s → P s.startCondition
  byte : ∀ s b, InTransaction s → P s → P (s.sendByte b)
  stop : ∀ s, InTransaction s → P s → P s.stopCondition
  begun : ∀ s, ¬InTransaction s → P s → P { (s.setClk .high).setDio .high with phase := .idle }
  closed : ∀ s, ¬InTransaction s → P s → P { s.releaseDio.releaseClk with phase := .closed }

/-- START leads to STARTED. -/
@[simp] theorem State.startCondition_phase (s : State) : s.startCondition.phase = .started := by
  rw [State.startCondition_eq]

/-- WRITEBYTE leads to WRITING. -/
@[simp] theorem State.sendByte_phase (b : Byte) (s : State) : (s.sendByte b).phase = .writing := by
  rw [State.sendByte_eq]

/-- Sending bytes sends the first and then the others. -/
theorem State.sendBytes_cons_snd (b : Byte) (bs : List Byte) (s : State) :
    (s.sendBytes (b :: bs)).2 = ((s.sendByte b).sendBytes bs).2 := rfl

/-- Bytes sent in a transaction leave it open. -/
theorem State.sendBytes_inTransaction {bytes : List Byte} {s : State} (hp : InTransaction s) :
    InTransaction (s.sendBytes bytes).2 := by
  induction bytes generalizing s with
  | nil => exact hp
  | cons b bs ih => exact ih (.inr (State.sendByte_phase b s))

/-- SETSEGMENTS is one transaction after the other. -/
theorem State.sendSegments_snd (bytes : List Byte) (pos : Byte) (s : State) :
    (s.sendSegments bytes pos).2 =
      ((s.transaction [dataCommand s.cfg]).2.transaction (addressCommand s.cfg pos :: bytes)).2 := by
  simp only [State.sendSegments, State.transaction_eq]

section
variable {P : State → Prop} (hP : Kept P)
include hP

/-- Bytes sent in a transaction keep what each of them keeps. -/
theorem Kept.sendBytes {bytes : List Byte} {s : State} (hp : InTransaction s) (h : P s) :
    P (s.sendBytes bytes).2 := by
  induction bytes generalizing s with
  | nil => exact h
  | cons b bs ih => exact ih (.inr (State.sendByte_phase b s)) (hP.byte s b hp h)

/-- So does a transaction from IDLE. -/
theorem Kept.transaction {bytes : List Byte} {s : State} (hp : s.phase = .idle) (h : P s) :
    P (s.transaction bytes).2 :=
  have started : InTransaction s.startCondition := .inl (State.startCondition_phase s)
  hP.stop _ (State.sendBytes_inTransaction started) (hP.sendBytes started (hP.start s hp h))

/-- And so do the two of SETSEGMENTS. -/
theorem Kept.sendSegments {bytes : List Byte} {pos : Byte} {s : State} (hp : s.phase = .idle) (h : P s) :
    P (s.sendSegments bytes pos).2 := by
  rw [State.sendSegments_snd]
  exact hP.transaction (by rw [State.transaction_eq]) (hP.transaction hp h)

/-- A reply changes nothing but what the host was told. -/
theorem Kept.reply {r : Reply} {s : State} (h : P s) : P (s.reply r) := hP.told s s.bright s.fault _ h

/-- Whatever an instruction has done, it kept the predicate. -/
theorem Kept.did {i : Instr} {s t : State} (hd : Did i s t) (h : P s) : P t := by
  cases hd with
  | raised code => exact hP.told s s.bright _ _ h
  | answered | rejected => exact hP.reply h
  | delayed => exact hP.reply (hP.delay s h)
  | started _ hp => exact hP.reply (hP.start s hp h)
  | stopped _ hp => exact hP.reply (hP.stop s hp h)
  | sent b _ hp => exact hP.reply (hP.byte s b hp h)
  | begun _ hs hw => exact hP.reply (hP.begun s (fun hp => hp.elim hs hw) h)
  | closed _ hs hw => exact hP.reply (hP.closed s (fun hp => hp.elim hs hw) h)
  | sentSegments _ _ _ _ hp => exact hP.reply (hP.sendSegments hp h)
  | sentBrightness level on _ hp =>
    exact hP.reply (hP.transaction (s := { s with bright := _ }) hp (hP.told s _ s.fault s.replies h))

/-- An instruction that answers a next state keeps the predicate. -/
theorem Kept.exec {i : Instr} {s t : State} (he : exec i s = .next t) (h : P s) : P t := hP.did (exec_next he).2 h

/-- A step keeps it too, if taking a request does. -/
theorem Kept.step (taken : ∀ s requests, P s → P { s with requests := requests }) {s t : State}
    (ht : step s = .next t) (h : P s) : P t := by
  obtain ⟨-, ⟨rfl, -⟩ | ⟨i, rest, s', rfl, he⟩⟩ := step_next ht
  · exact h
  · exact hP.exec he (taken s rest h)

end

/-! ### The lines by phase -/

/-- Each sequence leaves the lines of the phase that it leaves; a delay acts on no line (10_state.md R28). -/
theorem linesFollowPhase_kept : Kept State.LinesFollowPhase where
  told _ _ _ _ h := h
  delay _ h := h
  start s hp h := by
    simp only [State.LinesFollowPhase, hp] at h
    simp [State.LinesFollowPhase, State.startCondition_eq, h]
  byte s b _ _ := by simp [State.LinesFollowPhase, State.sendByte_eq]
  stop s _ _ := by simp [State.LinesFollowPhase, State.stopCondition_eq]
  begun _ _ _ := ⟨rfl, rfl⟩
  closed _ _ _ := ⟨rfl, rfl⟩

/-- Settles O56: each sequence that instructions are made of leaves the lines of its phase. -/
theorem stepKeepsLinesFollowingPhase : Obligations.StepKeepsLinesFollowingPhase := by
  unfold Obligations.StepKeepsLinesFollowingPhase
  exact fun s t h ht => linesFollowPhase_kept.step (fun _ _ h => h) ht h

/-! ### The display memory -/

/-- STOP in range leaves the display in range: it changes the view by a complete frame or not at all. -/
theorem State.stopCondition_displayInRange {s : State} (h : s.DisplayInRange) : s.stopCondition.DisplayInRange := by
  rw [State.stopCondition_eq]
  cases hf : s.rx.frame with
  | none => simpa [State.DisplayInRange, Receiver.closeFrame, hf] using h
  | some frame => simpa [State.DisplayInRange, Receiver.closeFrame, hf] using View.complete_display h

/-- Only STOP changes the receiver's view. -/
theorem displayInRange_kept : Kept State.DisplayInRange where
  told _ _ _ _ h := h
  delay _ h := h
  start s _ h := by
    rw [State.startCondition_eq]
    exact h
  byte s b _ h := by
    rw [State.sendByte_eq]
    exact h
  stop _ _ h := State.stopCondition_displayInRange h
  begun _ _ h := h
  closed _ _ h := h

/-- Settles O7: of the sequences that instructions are made of only STOP changes the view, and a complete frame keeps
the display memory in range. -/
theorem stepKeepsDisplayInRange : Obligations.StepKeepsDisplayInRange := by
  unfold Obligations.StepKeepsDisplayInRange
  exact fun s t h ht => displayInRange_kept.step (fun _ _ h => h) ht h

/-! ### The configuration and the trace -/

/-- Each sequence leaves the configuration and appends its actions. -/
theorem cfg_trace_kept (s : State) : Kept fun t => t.cfg = s.cfg ∧ s.trace <+: t.trace where
  told _ _ _ _ h := h
  delay := fun _ ⟨cfg_kept, grown⟩ => ⟨cfg_kept, grown.trans (List.prefix_append ..)⟩
  start := fun t _ ⟨cfg_kept, grown⟩ => by
    rw [State.startCondition_eq]
    exact ⟨cfg_kept, grown.trans (List.prefix_append ..)⟩
  byte := fun t b _ ⟨cfg_kept, grown⟩ => by
    rw [State.sendByte_eq]
    exact ⟨cfg_kept, grown.trans (List.prefix_append ..)⟩
  stop := fun t _ ⟨cfg_kept, grown⟩ => by
    rw [State.stopCondition_eq]
    exact ⟨cfg_kept, grown.trans (List.prefix_append ..)⟩
  begun := fun _ _ ⟨cfg_kept, grown⟩ =>
    ⟨cfg_kept, grown.trans ((List.prefix_append ..).trans (List.prefix_append ..))⟩
  closed := fun _ _ ⟨cfg_kept, grown⟩ =>
    ⟨cfg_kept, grown.trans ((List.prefix_append ..).trans (List.prefix_append ..))⟩

/-- Settles O3: no sequence writes the configuration, and each only appends to the trace. -/
theorem configurationConstantTraceAppendOnly : Obligations.ConfigurationConstantTraceAppendOnly := by
  unfold Obligations.ConfigurationConstantTraceAppendOnly
  intro s t ht
  obtain ⟨cfg_kept, actions, appended⟩ := (cfg_trace_kept s).step (fun _ _ h => h) ht ⟨rfl, List.prefix_rfl⟩
  exact ⟨cfg_kept, actions, appended.symm⟩

end Sys2Proof.Machine
end

section
/-! The wire contract (40_protocol.md R115 to R118): what each action and each sequence adds to the reading of a trace,
the lines that a trace replays, and the two statements that the machine's lines and receiver are those of its trace. -/

namespace Sys2Proof.Machine

open Sys2Proof.Claims

/-! ### What a reading depends on -/

/-- What matters of a reading for what is read next: all but the wire trace and the symbols read so far. -/
def Wire.core (w : Wire) : Wire := { w with steps := [], symbols := [] }

/-- A symbol extends the frames whatever the wire trace and the symbols before it. -/
theorem Wire.core_accept (sym : Symbol) (w : Wire) : (w.accept sym).core = (w.core.accept sym).core := by
  obtain ⟨clk, dio, pulse, levels, steps, edge, symbols, bits, frame, frames, stray⟩ := w
  cases sym with
  | start => cases frame <;> rfl
  | stop | bit _ | ack _ =>
    cases frame with
    | none => rfl
    | some f =>
      change Wire.core (ite _ _ _) = Wire.core (ite _ _ _)
      rw [apply_ite Wire.core, apply_ite Wire.core]
      rfl

/-- So does its emission. -/
theorem Wire.core_emit (sym : Symbol) (w : Wire) : (w.emit sym).core = (w.core.emit sym).core := by
  rw [Wire.emit, Wire.core_accept, Wire.emit, Wire.core_accept sym { w.core with symbols := _ }]
  rfl

/-- What a change of levels emits depends on the core alone. -/
theorem Wire.core_observe (before now : Level × Level) (w : Wire) :
    (w.observe before now).core = (w.core.observe before now).core := by
  simp only [Wire.observe]
  split
  · exact Wire.core_emit _ _
  · rfl
  · have kept : w.core.edge = w.edge := rfl
    rw [kept]
    cases w.edge with
    | none => rfl
    | some sym => exact Wire.core_emit _ _
  · rfl

/-- So does the recording of the levels. -/
theorem Wire.core_settle (w : Wire) : w.settle.core = w.core.settle.core := by
  simp only [Wire.settle]
  have same_lines : (w.core.clkLevel, w.core.dioLevel) = (w.clkLevel, w.dioLevel) := rfl
  have same_levels : w.core.levels = w.levels := rfl
  rw [same_lines, same_levels]
  split
  · rfl
  · rw [Wire.core_observe, Wire.core_observe _ _ { w.core with levels := _, steps := _ }]
    rfl

/-- The drivers are no part of what the core leaves out. -/
theorem Wire.core_drive (a : Action) (w : Wire) : (w.drive a).core = w.core.drive a := by
  cases a with
  | clkSet v => cases v <;> rfl
  | _ => rfl

/-- One action is read from the core alone. -/
theorem Wire.core_feed (w : Wire) (a : Action) : (w.feed a).core = (w.core.feed a).core := by
  simp only [Wire.feed]
  have kept : w.core.opensPulse a = w.opensPulse a := rfl
  rw [kept]
  split
  · rw [Wire.core_drive]
    exact (Wire.core_drive a w.core).symm
  · rw [Wire.core_settle, Wire.core_drive]

/-- And so is a list of actions. -/
theorem Wire.core_foldl (actions : List Action) (w : Wire) :
    (actions.foldl Wire.feed w).core = (actions.foldl Wire.feed w.core).core := by
  induction actions generalizing w with
  | nil => rfl
  | cons a actions ih => rw [List.foldl_cons, List.foldl_cons, ih, Wire.core_feed, ← ih]

/-- Actions are read one after the other. -/
theorem Wire.core_foldl_cons (a : Action) (actions : List Action) (w : Wire) :
    ((a :: actions).foldl Wire.feed w).core = (actions.foldl Wire.feed (w.feed a).core).core :=
  Wire.core_foldl actions (w.feed a)

/-- And so are sequences of actions. -/
theorem Wire.core_foldl_append (before more : List Action) (w : Wire) :
    ((before ++ more).foldl Wire.feed w).core = (more.foldl Wire.feed (before.foldl Wire.feed w).core).core := by
  rw [List.foldl_append, Wire.core_foldl]

/-! ### What one symbol and one action add to a reading -/

/-- START opens a frame (40_protocol.md R117). -/
theorem Wire.accept_start {w : Wire} (hf : w.frame = none) :
    w.accept .start = { w with frame := some [], bits := [] } := by
  simp [Wire.accept, hf]

/-- A bit joins the byte that is being received. -/
theorem Wire.accept_bit {w : Wire} {f : List (Byte × Bool)} (v : Level) (hf : w.frame = some f)
    (hb : w.bits.length < 8) : w.accept (.bit v) = { w with bits := w.bits ++ [v] } := by
  simp [Wire.accept, hf, hb]

/-- ACK after eight bits completes the byte. -/
theorem Wire.accept_ack {w : Wire} {f : List (Byte × Bool)} (a : Level) (hf : w.frame = some f)
    (hb : w.bits.length = 8) :
    w.accept (.ack a) = { w with frame := some (f ++ [(byteOfBits w.bits, ackOf a)]), bits := [] } := by
  simp [Wire.accept, hf, hb]

/-- STOP between two bytes completes the frame. -/
theorem Wire.accept_stop {w : Wire} {f : List (Byte × Bool)} (hf : w.frame = some f) (hb : w.bits = []) :
    w.accept .stop = { w with frame := none, frames := w.frames ++ [f] } := by
  simp [Wire.accept, hf, hb]

/-- Where the levels stay as recorded, an action that opens no pulse only moves the drivers. -/
theorem Wire.feed_of_levels_kept {w : Wire} {a : Action} (ho : w.opensPulse a = false)
    (h : ((w.drive a).clkLevel, (w.drive a).dioLevel) = (w.drive a).levels) : w.feed a = w.drive a := by
  simp [Wire.feed, ho, Wire.settle, h]

/-- While CLK stays low no symbol comes of an action. -/
theorem Wire.feed_low {w : Wire} {a : Action} (ho : w.opensPulse a = false) (before : (w.drive a).levels.1 = .low)
    (now : (w.drive a).clkLevel = .low) :
    (w.feed a).core = { w.drive a with levels := (.low, (w.drive a).dioLevel) }.core := by
  simp only [Wire.feed, ho, Wire.settle, now, Bool.false_eq_true, if_false]
  split
  next h => rw [h]
  next => simp only [Wire.observe, before]; rfl

/-- A rising CLK edge opens an interval that is to give the bit driven or the level sampled. -/
theorem Wire.feed_rise {w : Wire} {a : Action} (ho : w.opensPulse a = false) (before : (w.drive a).levels.1 = .low)
    (now : (w.drive a).clkLevel = .high) :
    (w.feed a).core = { w.drive a with
      levels := (.high, (w.drive a).dioLevel),
      edge := some (if (w.drive a).dio.dir = Dir.output then Symbol.bit (w.drive a).dioLevel
        else .ack (w.drive a).dioLevel) }.core := by
  have changed : (Level.high, (w.drive a).dioLevel) ≠ (w.drive a).levels := fun h => by simp [← h] at before
  simp only [Wire.feed, ho, Wire.settle, now, Bool.false_eq_true, if_false]
  rw [if_neg changed]
  simp only [Wire.observe, before]
  rfl

/-- A falling CLK edge gives the interval's symbol. -/
theorem Wire.feed_fall {w : Wire} {a : Action} {sym : Symbol} (ho : w.opensPulse a = false)
    (before : (w.drive a).levels.1 = .high) (now : (w.drive a).clkLevel = .low) (he : (w.drive a).edge = some sym) :
    (w.feed a).core = ({ w.drive a with levels := (.low, (w.drive a).dioLevel), edge := none }.accept sym).core := by
  have changed : (Level.low, (w.drive a).dioLevel) ≠ (w.drive a).levels := fun h => by simp [← h] at before
  simp only [Wire.feed, ho, Wire.settle, now, Bool.false_eq_true, if_false]
  rw [if_neg changed]
  simp only [Wire.observe, before, he]
  rw [Wire.emit, Wire.core_accept]
  exact (Wire.core_accept sym { w.drive a with levels := _, edge := none }).symm

/-- A change of DIO while CLK is high is a start or a stop condition. -/
theorem Wire.feed_high {w : Wire} {a : Action} (ho : w.opensPulse a = false) (before : (w.drive a).levels.1 = .high)
    (now : (w.drive a).clkLevel = .high) (changed : (w.drive a).dioLevel ≠ (w.drive a).levels.2) :
    (w.feed a).core = ({ w.drive a with levels := (.high, (w.drive a).dioLevel), edge := none }.accept
      (if (w.drive a).dioLevel = Level.low then .start else .stop)).core := by
  have changed' : (Level.high, (w.drive a).dioLevel) ≠ (w.drive a).levels := fun h => changed (by rw [← h])
  simp only [Wire.feed, ho, Wire.settle, now, Bool.false_eq_true, if_false]
  rw [if_neg changed']
  simp only [Wire.observe, before]
  rw [Wire.emit, Wire.core_accept]
  exact (Wire.core_accept _ { w.drive a with levels := _, edge := none }).symm

/-! ### The byte of eight bits -/

/-- The number of `n` bits, least-significant first (40_protocol.md R117). -/
theorem foldr_testBit (n k : Nat) :
    ((List.range n).map fun i => Level.ofBit (k.testBit i)).foldr (fun v m => v.toBit.toNat + 2 * m) 0 = k % 2 ^ n := by
  induction n generalizing k with
  | zero => simp [Nat.mod_one]
  | succ n ih =>
    have low : (Level.ofBit (k.testBit 0)).toBit.toNat = k % 2 := by
      rw [Nat.testBit_zero]
      obtain h | h := Nat.mod_two_eq_zero_or_one k <;> simp [h, Level.ofBit, Level.toBit]
    have rest := ih (k / 2)
    simp only [Nat.testBit_div_two] at rest
    simp only [List.range_succ_eq_map, List.map_cons, List.map_map, List.foldr_cons, low]
    rw [pow_succ', Nat.mod_mul, ← rest]
    rfl

/-- The eight bits of a byte give it back. -/
theorem byteOfBits_ofBit (b : Byte) : byteOfBits ((List.range 8).map fun i => .ofBit (b.getLsbD i)) = b := by
  apply BitVec.eq_of_toNat_eq
  have value := foldr_testBit 8 b.toNat
  simp only [byteOfBits, BitVec.toNat_ofNat, BitVec.getLsbD, value]
  omega

/-! ### The receiver's reading of each sequence -/

/-- The level of a line outside an acknowledgement pulse: a released line reads 1 (40_protocol.md R115). -/
def Line.level (l : Line) : Level :=
  match l.dir with
  | .output => l.out
  | .input => .high

/-- A reading with all levels recorded and no acknowledgement pulse. -/
def Wire.reading (clk dio : Line) (edge : Option Symbol) (bits : List Level) (frame : Option (List (Byte × Bool)))
    (frames : List (List (Byte × Bool))) : Wire where
  clk := clk
  dio := dio
  pulse := none
  levels := (clk.level, dio.level)
  steps := []
  edge := edge
  symbols := []
  bits := bits
  frame := frame
  frames := frames
  stray := []

section
variable (us : Nat) (clk dio : Line) (v : Level) (edge : Option Symbol) (bits : List Level)
  (f : List (Byte × Bool)) (frame : Option (List (Byte × Bool))) (frames : List (List (Byte × Bool)))

/-! One action. -/

/-- A delay adds nothing. -/
theorem Wire.reading_delay : ((Wire.reading clk dio edge bits frame frames).feed (.delay us)).core =
    .reading clk dio edge bits frame frames :=
  congrArg Wire.core (Wire.feed_of_levels_kept rfl rfl)

/-- While CLK is high, nor does an action after which both lines read as before. -/
theorem Wire.reading_kept {clk dio clk' dio' : Line} {a : Action} (high : clk.level = .high)
    (driven : (Wire.reading clk dio edge bits frame frames).drive a =
      { Wire.reading clk dio edge bits frame frames with clk := clk', dio := dio' })
    (hclk : clk'.level = clk.level) (hdio : dio'.level = dio.level) :
    ((Wire.reading clk dio edge bits frame frames).feed a).core = .reading clk' dio' edge bits frame frames := by
  have same : Wire.reading clk' dio' edge bits frame frames =
      { Wire.reading clk dio edge bits frame frames with clk := clk', dio := dio' } := by
    simp only [Wire.reading, hclk, hdio]
  have opens_none : (Wire.reading clk dio edge bits frame frames).opensPulse a = false := by
    have reads_high : (Wire.reading clk dio edge bits frame frames).clkLevel = .high := high
    simp [Wire.opensPulse, reads_high]
  rw [Wire.feed_of_levels_kept opens_none, driven, same]
  · rfl
  · rw [driven, ← same]
    rfl

/-- While CLK is low DIO changes without a symbol. -/
theorem Wire.reading_dioSet_low : ((Wire.reading ⟨.output, .low⟩ dio edge bits frame frames).feed (.dioSet v)).core =
    .reading ⟨.output, .low⟩ ⟨.output, v⟩ edge bits frame frames :=
  Wire.feed_low rfl rfl rfl

/-- Driving CLK low again adds nothing. -/
theorem Wire.reading_clkSet_low :
    ((Wire.reading ⟨.output, .low⟩ dio edge bits frame frames).feed (.clkSet .low)).core =
      .reading ⟨.output, .low⟩ dio edge bits frame frames :=
  Wire.feed_low rfl rfl rfl

/-- A rising CLK edge with DIO driven announces its level as a bit (R116). -/
theorem Wire.reading_rise :
    ((Wire.reading ⟨.output, .low⟩ ⟨.output, v⟩ edge bits frame frames).feed (.clkSet .high)).core =
      .reading ⟨.output, .high⟩ ⟨.output, v⟩ (some (.bit v)) bits frame frames :=
  Wire.feed_rise rfl rfl rfl

/-- The falling edge gives the bit to the byte. -/
theorem Wire.reading_fall (h : bits.length < 8) :
    ((Wire.reading ⟨.output, .high⟩ ⟨.output, v⟩ (some (.bit v)) bits (some f) frames).feed (.clkSet .low)).core =
      .reading ⟨.output, .low⟩ ⟨.output, v⟩ none (bits ++ [v]) (some f) frames :=
  (Wire.feed_fall rfl rfl rfl rfl).trans (congrArg Wire.core (Wire.accept_bit v rfl h))

/-! A byte. -/

/-- One bit of WRITEBYTE is read as that bit. -/
theorem Wire.reading_bit (v : Bool) (h : bits.length < 8) :
    ((bitActions us v).foldl Wire.feed (.reading ⟨.output, .low⟩ dio none bits (some f) frames)).core =
      .reading ⟨.output, .low⟩ ⟨.output, .ofBit v⟩ none (bits ++ [.ofBit v]) (some f) frames := by
  simp only [bitActions, Wire.core_foldl_cons, Wire.reading_clkSet_low, Wire.reading_dioSet_low, Wire.reading_rise,
    Wire.reading_fall _ _ _ _ h, Wire.reading_delay, List.foldl_nil]
  rfl

/-- A reading inside an acknowledgement pulse, once the level is sampled. -/
def Wire.sampled (a v : Level) (bits : List Level) (f : List (Byte × Bool)) (frames : List (List (Byte × Bool))) :
    Wire :=
  { Wire.reading ⟨.output, .high⟩ ⟨.input, v⟩ (some (.ack a)) bits (some f) frames with
    pulse := some a, levels := (.high, a) }

/-- The pulse's rising edge is recorded at its sample (log entry 22), and announces the level as an acknowledgement. -/
theorem Wire.reading_sample (a : Level) :
    ([.clkSet .high, .dioSample a].foldl Wire.feed
      (.reading ⟨.output, .low⟩ ⟨.input, v⟩ none bits (some f) frames)).core = .sampled a v bits f frames :=
  Wire.feed_rise (w := (Wire.reading ⟨.output, .low⟩ ⟨.input, v⟩ none bits (some f) frames).drive (.clkSet .high))
    (a := .dioSample a) rfl rfl rfl

/-- The pulse's falling edge gives the acknowledgement, which completes the byte. -/
theorem Wire.sampled_fall (a : Level) (h : bits.length = 8) :
    ([.delay us, .clkSet .low].foldl Wire.feed (.sampled a v bits f frames)).core =
      .reading ⟨.output, .low⟩ ⟨.input, v⟩ none [] (some (f ++ [(byteOfBits bits, ackOf a)])) frames := by
  have kept : (Wire.sampled a v bits f frames).feed (.delay us) = .sampled a v bits f frames :=
    Wire.feed_of_levels_kept rfl rfl
  rw [List.foldl_cons, kept]
  exact (Wire.feed_fall (w := .sampled a v bits f frames) (a := .clkSet .low) rfl rfl rfl rfl).trans
    (congrArg Wire.core (Wire.accept_ack a rfl h))

/-- The acknowledgement pulse after eight bits is read as their byte with its acknowledgement. -/
theorem Wire.reading_ackPulse (a : Level) (h : bits.length = 8) :
    ([.dioRelease, .clkSet .high, .dioSample a, .delay us, .clkSet .low].foldl Wire.feed
        (.reading ⟨.output, .low⟩ ⟨.output, v⟩ none bits (some f) frames)).core =
      .reading ⟨.output, .low⟩ ⟨.input, v⟩ none [] (some (f ++ [(byteOfBits bits, ackOf a)])) frames := by
  have release : ((Wire.reading ⟨.output, .low⟩ ⟨.output, v⟩ none bits (some f) frames).feed .dioRelease).core =
      .reading ⟨.output, .low⟩ ⟨.input, v⟩ none bits (some f) frames :=
    Wire.feed_low rfl rfl rfl
  have rise_then_fall := Wire.core_foldl_append [.clkSet .high, .dioSample a] [.delay us, .clkSet .low]
    (.reading ⟨.output, .low⟩ ⟨.input, v⟩ none bits (some f) frames)
  rw [Wire.reading_sample, Wire.sampled_fall us v bits f frames a h] at rise_then_fall
  rw [Wire.core_foldl_cons, release]
  exact rise_then_fall

/-- WRITEBYTE is read as its byte with its acknowledgement. -/
theorem Wire.reading_byteActions (b : Byte) (a : Level) :
    ((byteActions us b a).foldl Wire.feed (.reading ⟨.output, .low⟩ dio none [] (some f) frames)).core =
      .reading ⟨.output, .low⟩ ⟨.input, .ofBit (b.getLsbD 7)⟩ none [] (some (f ++ [(b, ackOf a)])) frames := by
  simp (disch := simp) only [byteActions, Wire.core_foldl_append, Wire.reading_bit, Wire.reading_ackPulse]
  exact congrArg (fun b => Wire.reading _ _ none [] (some (f ++ [(b, ackOf a)])) frames) (byteOfBits_ofBit b)

/-- So it is just after START, where its first action only ends the clock-high interval of the start condition. -/
theorem Wire.reading_byteActions_started (b : Byte) (a : Level) :
    ((byteActions us b a).foldl Wire.feed
        (.reading ⟨.output, .high⟩ ⟨.output, .low⟩ none [] (some f) frames)).core =
      .reading ⟨.output, .low⟩ ⟨.input, .ofBit (b.getLsbD 7)⟩ none [] (some (f ++ [(b, ackOf a)])) frames := by
  have lowered : ((Wire.reading ⟨.output, .high⟩ ⟨.output, .low⟩ none [] (some f) frames).feed (.clkSet .low)).core =
      ((Wire.reading ⟨.output, .low⟩ ⟨.output, .low⟩ none [] (some f) frames).feed (.clkSet .low)).core := rfl
  have first : byteActions us b a = .clkSet .low :: (byteActions us b a).tail := rfl
  rw [← Wire.reading_byteActions us ⟨.output, .low⟩ f frames b a, first, Wire.core_foldl_cons, lowered,
    ← Wire.core_foldl_cons]

/-! The two conditions. -/

/-- START is read as the opening of a frame. -/
theorem Wire.reading_startActions :
    ((startActions us).foldl Wire.feed (.reading ⟨.output, .high⟩ ⟨.output, .high⟩ none [] none frames)).core =
      .reading ⟨.output, .high⟩ ⟨.output, .low⟩ none [] (some []) frames := by
  have start : ((Wire.reading ⟨.output, .high⟩ ⟨.output, .high⟩ none [] none frames).feed (.dioSet .low)).core =
      .reading ⟨.output, .high⟩ ⟨.output, .low⟩ none [] (some []) frames :=
    (Wire.feed_high rfl rfl rfl (by change Level.low ≠ .high; decide)).trans
      (congrArg Wire.core (Wire.accept_start rfl))
  rw [startActions, Wire.core_foldl_cons, start, Wire.core_foldl_cons, Wire.reading_delay]
  rfl

/-- The rise of DIO while CLK is high completes the frame. -/
theorem Wire.reading_stop :
    ([.dioSet .high, .delay us].foldl Wire.feed
        (.reading ⟨.output, .high⟩ ⟨.output, .low⟩ edge [] (some f) frames)).core =
      .reading ⟨.output, .high⟩ ⟨.output, .high⟩ none [] none (frames ++ [f]) := by
  have stop : ((Wire.reading ⟨.output, .high⟩ ⟨.output, .low⟩ edge [] (some f) frames).feed (.dioSet .high)).core =
      .reading ⟨.output, .high⟩ ⟨.output, .high⟩ none [] none (frames ++ [f]) :=
    (Wire.feed_high rfl rfl rfl (by change Level.high ≠ .low; decide)).trans
      (congrArg Wire.core (Wire.accept_stop rfl rfl))
  rw [Wire.core_foldl_cons, stop, Wire.core_foldl_cons, Wire.reading_delay]
  rfl

/-- STOP after a byte is read as the end of the frame. -/
theorem Wire.reading_stopActions :
    ((stopActions us).foldl Wire.feed (.reading ⟨.output, .low⟩ dio none [] (some f) frames)).core =
      .reading ⟨.output, .high⟩ ⟨.output, .high⟩ none [] none (frames ++ [f]) := by
  rw [stopActions, Wire.core_foldl_cons, Wire.reading_dioSet_low, Wire.core_foldl_cons, Wire.reading_delay,
    Wire.core_foldl_cons, Wire.reading_rise, Wire.core_foldl_cons, Wire.reading_delay]
  exact Wire.reading_stop ..

/-- So is STOP just after START, where only its last line action changes a level. -/
theorem Wire.reading_stopActions_started :
    ((stopActions us).foldl Wire.feed (.reading ⟨.output, .high⟩ ⟨.output, .low⟩ none [] (some f) frames)).core =
      .reading ⟨.output, .high⟩ ⟨.output, .high⟩ none [] none (frames ++ [f]) := by
  have kept {a : Action} (ha : a = .dioSet .low ∨ a = .clkSet .high) :
      ((Wire.reading ⟨.output, .high⟩ ⟨.output, .low⟩ none [] (some f) frames).feed a).core =
        .reading ⟨.output, .high⟩ ⟨.output, .low⟩ none [] (some f) frames := by
    obtain rfl | rfl := ha <;> exact Wire.reading_kept _ _ _ _ rfl rfl rfl rfl
  rw [stopActions, Wire.core_foldl_cons, kept (.inl rfl), Wire.core_foldl_cons, Wire.reading_delay,
    Wire.core_foldl_cons, kept (.inr rfl), Wire.core_foldl_cons, Wire.reading_delay]
  exact Wire.reading_stop ..

end

/-! ### The replayed lines -/

/-- What a reading replays of the lines: both drivers and the acknowledgement pulse. -/
def Wire.drivers (w : Wire) : Line × Line × Option Level := (w.clk, w.dio, w.pulse)

/-- A symbol moves no line and no recorded level. -/
theorem Wire.accept_lines (sym : Symbol) (w : Wire) :
    (w.accept sym).drivers = w.drivers ∧ (w.accept sym).levels = w.levels := by
  unfold Wire.accept
  split <;> (try split) <;> exact ⟨rfl, rfl⟩

/-- Nor does what a change of levels emits. -/
theorem Wire.observe_lines (before now : Level × Level) (w : Wire) :
    (w.observe before now).drivers = w.drivers ∧ (w.observe before now).levels = w.levels := by
  unfold Wire.observe
  split
  · exact Wire.accept_lines ..
  · exact ⟨rfl, rfl⟩
  · split
    · exact Wire.accept_lines ..
    · exact ⟨rfl, rfl⟩
  · exact ⟨rfl, rfl⟩

/-- Settling records the levels of the lines as they are driven. -/
theorem Wire.settle_lines (w : Wire) :
    w.settle.drivers = w.drivers ∧ w.settle.levels = (w.clkLevel, w.dioLevel) := by
  simp only [Wire.settle]
  split
  next h => exact ⟨rfl, h.symm⟩
  next => exact Wire.observe_lines ..

/-- An action leaves the drivers as it drives them. -/
theorem Wire.feed_drivers (w : Wire) (a : Action) : (w.feed a).drivers = (w.drive a).drivers := by
  unfold Wire.feed
  split
  · rfl
  · exact (w.drive a).settle_lines.1

/-- An action that opens no pulse leaves every level recorded. -/
theorem Wire.feed_levels {w : Wire} {a : Action} (ha : a ≠ .clkSet .high) :
    (w.feed a).levels = ((w.feed a).clkLevel, (w.feed a).dioLevel) := by
  have opens_none : w.opensPulse a = false := by simp [Wire.opensPulse, ha]
  have settled : w.feed a = (w.drive a).settle := by simp [Wire.feed, opens_none]
  obtain ⟨drivers, levels⟩ := (w.drive a).settle_lines
  simp only [Wire.drivers, Prod.mk.injEq] at drivers
  obtain ⟨clk, dio, pulse⟩ := drivers
  rw [settled, levels, Wire.clkLevel, Wire.dioLevel, Wire.clkLevel, Wire.dioLevel, clk, dio, pulse]

/-- The drivers after an action are given by the drivers before it. -/
theorem Wire.drive_drivers_congr {w w' : Wire} (h : w.drivers = w'.drivers) (a : Action) :
    (w.drive a).drivers = (w'.drive a).drivers := by
  simp only [Wire.drivers, Prod.mk.injEq] at h
  obtain ⟨clk, dio, pulse⟩ := h
  cases a with
  | clkSet v => cases v <;> simp [Wire.drive, Wire.drivers, dio, pulse]
  | _ => simp [Wire.drive, Wire.drivers, clk, dio, pulse]

/-- The drivers after a list of actions are those that the actions drive, whatever was read. -/
theorem Wire.foldl_feed_drivers {actions : List Action} {w w' : Wire} (h : w.drivers = w'.drivers) :
    (actions.foldl Wire.feed w).drivers = (actions.foldl (fun w a => w.drive a) w').drivers := by
  induction actions generalizing w w' with
  | nil => exact h
  | cons a actions ih => exact ih ((w.feed_drivers a).trans (Wire.drive_drivers_congr h a))

/-- The lines replay where the trace has grown by actions that drive them so and that end outside a pulse. -/
theorem State.LinesReplay.append {s t : State} {actions : List Action} {last : Action} (h : s.LinesReplay)
    (ht : t.trace = s.trace ++ actions) (hl : actions.getLast? = some last) (hp : last ≠ .clkSet .high)
    (hd : ∀ w : Wire, w.clk = s.clk → w.dio = s.dio → w.pulse = none →
      (actions.foldl (fun w a => w.drive a) w).drivers = (t.clk, t.dio, none)) : t.LinesReplay := by
  obtain ⟨hclk, hdio, -, hpulse⟩ := h
  obtain ⟨init, rfl⟩ := List.getLast?_eq_some_iff.mp hl
  have after : (Wire.ofTrace t.trace).drivers = (t.clk, t.dio, none) := by
    rw [ht, Wire.ofTrace_append, Wire.foldl_feed_drivers rfl, hd _ hclk hdio hpulse]
  simp only [Wire.drivers, Prod.mk.injEq] at after
  obtain ⟨clk, dio, pulse⟩ := after
  refine ⟨clk, dio, ?_, pulse⟩
  rw [ht, Wire.ofTrace_append, List.foldl_append]
  exact Wire.feed_levels hp

/-- Each sequence ends outside a pulse, with the lines that its actions drive. -/
theorem linesReplay_kept : Kept State.LinesReplay where
  told _ _ _ _ h := h
  delay s h := h.append (actions := [.delay s.cfg.bitDelayUs]) rfl rfl (by simp) fun w hclk hdio hpulse => by
    simp [Wire.drivers, Wire.drive, hclk, hdio, hpulse]
  start s _ h := by
    rw [State.startCondition_eq]
    exact h.append rfl rfl (by simp) fun w hclk hdio hpulse => by
      simp [startActions, Wire.drivers, Wire.drive, hclk, hpulse]
  byte s b _ h := by
    rw [State.sendByte_eq]
    exact h.append rfl rfl (by simp) fun _ _ _ _ => rfl
  stop s _ h := by
    rw [State.stopCondition_eq]
    exact h.append rfl rfl (by simp) fun w hclk hdio hpulse => by
      simp [stopActions, Wire.drivers, Wire.drive, hpulse]
  begun s _ h := h.append (actions := [.clkSet .high, .dioSet .high]) (by simp) rfl (by simp)
    fun w hclk hdio hpulse => by simp [Wire.drivers, Wire.drive, hpulse]
  closed s _ h := h.append (actions := [.dioRelease, .clkRelease]) (by simp) rfl (by simp)
    fun w hclk hdio hpulse => by simp [Wire.drivers, Wire.drive, hclk, hdio, hpulse]

/-! ### The open frame by phase -/

/-- START opens a frame, WRITEBYTE adds a byte, STOP closes it; outside a transaction none is open. -/
theorem frameFollowsPhase_kept : Kept State.FrameFollowsPhase where
  told _ _ _ _ h := h
  delay _ h := h
  start s _ _ := by rw [State.startCondition_eq]; rfl
  byte s b hp h := by
    rw [State.sendByte_eq]
    obtain hp | hp := hp
    · have empty : s.rx.frame = some [] := by simpa only [State.FrameFollowsPhase, hp] using h
      exact ⟨(b, ackOf s.nextSample), [], by simp [Receiver.takeByte, empty]⟩
    · obtain ⟨first, rest, frame⟩ : ∃ first rest, s.rx.frame = some (first :: rest) := by
        simpa only [State.FrameFollowsPhase, hp] using h
      exact ⟨first, rest ++ [(b, ackOf s.nextSample)], by simp [Receiver.takeByte, frame]⟩
  stop s _ _ := by
    rw [State.stopCondition_eq]
    simp only [State.FrameFollowsPhase, Receiver.closeFrame]
    split <;> simp_all
  begun s hp h := by
    cases hs : s.phase <;> simp_all [State.FrameFollowsPhase, InTransaction]
  closed s hp h := by
    cases hs : s.phase <;> simp_all [State.FrameFollowsPhase, InTransaction]

/-! ### What the receiver hears -/

/-- The receiver has read the trace to its end, the frames `frames` and the open frame of the state, and nothing is
left over. -/
def State.Hears (s : State) (frames : List (List (Byte × Bool))) : Prop :=
  (Wire.ofTrace s.trace).core = .reading s.clk s.dio none [] s.rx.frame frames

/-- What the receiver hears goes on from the reading at rest. -/
theorem State.Hears.append {s t : State} {frames frames' : List (List (Byte × Bool))} {actions : List Action}
    (h : s.Hears frames) (ht : t.trace = s.trace ++ actions)
    (hr : (actions.foldl Wire.feed (.reading s.clk s.dio none [] s.rx.frame frames)).core =
      .reading t.clk t.dio none [] t.rx.frame frames') : t.Hears frames' := by
  rw [State.Hears, ht, Wire.ofTrace_append, Wire.core_foldl, h, hr]

/-- The frames that are heard are those of the wire trace. -/
theorem State.Hears.frames_eq {s : State} {frames : List (List (Byte × Bool))} (h : s.Hears frames) :
    (Wire.ofTrace s.trace).frames = frames := congrArg Wire.frames h

section
variable {s : State} {frames : List (List (Byte × Bool))}

/-- A delay is not heard. -/
theorem State.Hears.delay (h : s.Hears frames) : s.delay.Hears frames :=
  h.append (actions := [.delay s.cfg.bitDelayUs]) rfl (Wire.reading_delay ..)

/-- START is heard. -/
theorem State.Hears.startCondition (hp : s.phase = .idle) (hl : s.LinesFollowPhase) (hf : s.FrameFollowsPhase)
    (h : s.Hears frames) : s.startCondition.Hears frames := by
  simp only [State.LinesFollowPhase, State.FrameFollowsPhase, hp] at hl hf
  obtain ⟨hclk, hdio⟩ := hl
  rw [State.startCondition_eq]
  refine h.append rfl ?_
  rw [hclk, hdio, hf]
  exact Wire.reading_startActions ..

/-- WRITEBYTE is heard. -/
theorem State.Hears.sendByte (b : Byte) (hp : InTransaction s) (hl : s.LinesFollowPhase) (hf : s.FrameFollowsPhase)
    (h : s.Hears frames) : (s.sendByte b).Hears frames := by
  rw [State.sendByte_eq]
  refine h.append rfl ?_
  obtain hp | hp := hp
  · simp only [State.LinesFollowPhase, State.FrameFollowsPhase, hp] at hl hf
    obtain ⟨hclk, hdio⟩ := hl
    simp only [hclk, hdio, hf, Receiver.takeByte, Option.map_some]
    exact Wire.reading_byteActions_started ..
  · simp only [State.LinesFollowPhase, State.FrameFollowsPhase, hp] at hl hf
    obtain ⟨hclk, -⟩ := hl
    obtain ⟨first, rest, hf⟩ := hf
    simp only [hclk, hf, Receiver.takeByte, Option.map_some]
    exact Wire.reading_byteActions ..

/-- STOP is heard as the end of the open frame. -/
theorem State.Hears.stopCondition {f : List (Byte × Bool)} (hp : InTransaction s) (hl : s.LinesFollowPhase)
    (hf : s.rx.frame = some f) (h : s.Hears frames) : s.stopCondition.Hears (frames ++ [f]) := by
  rw [State.stopCondition_eq]
  refine h.append rfl ?_
  obtain hp | hp := hp
  · simp only [State.LinesFollowPhase, hp] at hl
    obtain ⟨hclk, hdio⟩ := hl
    simp only [hclk, hdio, hf, Receiver.closeFrame]
    exact Wire.reading_stopActions_started ..
  · simp only [State.LinesFollowPhase, hp] at hl
    obtain ⟨hclk, -⟩ := hl
    simp only [hclk, hf, Receiver.closeFrame]
    exact Wire.reading_stopActions ..

/-- Outside a transaction both lines read 1 (10_state.md R27, R28). -/
theorem levels_high_of_not_inTransaction (hp : ¬InTransaction s) (hl : s.LinesFollowPhase) :
    s.clk.level = .high ∧ s.dio.level = .high := by
  obtain hs | hs | hs := phase_outside_frame (fun h => hp (.inl h)) (fun h => hp (.inr h)) <;>
    simp only [State.LinesFollowPhase, hs] at hl <;> simp [Line.level, hl]

/-- Opening the bus is not heard: lines that read 1 are driven to 1. -/
theorem State.Hears.begun (hp : ¬InTransaction s) (hl : s.LinesFollowPhase) (h : s.Hears frames) :
    State.Hears { (s.setClk .high).setDio .high with phase := .idle } frames := by
  obtain ⟨hclk, hdio⟩ := levels_high_of_not_inTransaction hp hl
  refine h.append (actions := [.clkSet .high, .dioSet .high]) (by simp) ?_
  have clk := Wire.reading_kept (a := .clkSet .high) none [] s.rx.frame frames hclk rfl (clk' := ⟨.output, .high⟩)
    (dio' := s.dio) hclk.symm rfl
  have dio := Wire.reading_kept (a := .dioSet .high) none [] s.rx.frame frames (clk := ⟨.output, .high⟩) rfl rfl
    (dio' := ⟨.output, .high⟩) rfl hdio.symm
  rw [Wire.core_foldl_cons, clk, Wire.core_foldl_cons, dio]
  rfl

/-- Nor is closing it: lines that read 1 are released. -/
theorem State.Hears.closed (hp : ¬InTransaction s) (hl : s.LinesFollowPhase) (h : s.Hears frames) :
    State.Hears { s.releaseDio.releaseClk with phase := .closed } frames := by
  obtain ⟨hclk, hdio⟩ := levels_high_of_not_inTransaction hp hl
  refine h.append (actions := [.dioRelease, .clkRelease]) (by simp) ?_
  have dio := Wire.reading_kept (a := .dioRelease) none [] s.rx.frame frames hclk rfl (clk' := s.clk)
    (dio' := { s.dio with dir := .input }) rfl hdio.symm
  have clk := Wire.reading_kept (a := .clkRelease) none [] s.rx.frame frames (dio := { s.dio with dir := .input }) hclk
    rfl (clk' := { s.clk with dir := .input }) (dio' := { s.dio with dir := .input }) hclk.symm rfl
  rw [Wire.core_foldl_cons, dio, Wire.core_foldl_cons, clk]
  rfl

/-! ### The receiver and its view -/

/-- Where the contract is claimed, the receiver of the state is that of the trace if the trace is heard and the frames
heard give the view. -/
theorem State.wireAgrees_iff_hears (hs : s.cfg.slowEnough = true) (hr : s.LinesReplay) :
    s.WireAgrees ↔
      ∃ frames, s.Hears frames ∧ frames.foldl (fun v f => v.complete s.cfg f) .unknown = s.rx.view := by
  obtain ⟨hclk, hdio, hlevels, hpulse⟩ := hr
  have levels : ((Wire.ofTrace s.trace).clkLevel, (Wire.ofTrace s.trace).dioLevel) = (s.clk.level, s.dio.level) := by
    simp only [Wire.clkLevel, Wire.dioLevel, hclk, hdio, hpulse]
    rfl
  simp only [State.WireAgrees, received_eq_some, hs, true_and, forall_eq, viewOfTrace_claimed]
  constructor
  · rintro ⟨⟨hedge, hbits, hstray, hframe⟩, hview⟩
    refine ⟨_, ?_, hview⟩
    simp only [State.Hears, Wire.core, Wire.reading, hclk, hdio, hlevels, levels, hpulse, hedge, hbits, hstray, hframe]
  · rintro ⟨frames, heard, hview⟩
    refine ⟨⟨congrArg Wire.edge heard, congrArg Wire.bits heard, congrArg Wire.stray heard,
      congrArg Wire.frame heard⟩, ?_⟩
    rwa [heard.frames_eq]

/-- Elsewhere it is if its view is unknown (70_reset_and_hazards.md R240). -/
theorem State.wireAgrees_iff_unknown (hs : s.cfg.slowEnough = false) : s.WireAgrees ↔ s.rx.view = .unknown := by
  simpa [State.WireAgrees, hs, viewOfTrace_unclaimed] using eq_comm

/-- A sequence keeps the agreement where its trace is heard as the frames that it completes, and these have their effect
on the view. -/
theorem State.Consistent.wireAgrees {t : State} (completed : List (List (Byte × Bool))) (h : s.Consistent)
    (hr : t.LinesReplay) (hc : t.cfg = s.cfg)
    (hv : t.rx.view = completed.foldl (fun v f => v.complete s.cfg f) s.rx.view)
    (heard : ∀ frames, s.Hears frames → t.Hears (frames ++ completed)) : t.WireAgrees := by
  cases hs : s.cfg.slowEnough with
  | true =>
    obtain ⟨frames, hears, view⟩ := (State.wireAgrees_iff_hears hs h.replay).mp h.wire
    refine (State.wireAgrees_iff_hears (hc ▸ hs) hr).mpr ⟨_, heard frames hears, ?_⟩
    rw [hc, hv, List.foldl_append, view]
  | false =>
    have unknown := (State.wireAgrees_iff_unknown hs).mp h.wire
    refine (State.wireAgrees_iff_unknown (hc ▸ hs)).mpr ?_
    rw [hv, unknown]
    exact List.foldl_fixed' (fun _ => View.complete_unclaimed hs) completed

/-- Where a sequence completes no frame and leaves the view, that it is heard is enough. -/
theorem State.Consistent.wireAgrees_of_no_frame {t : State} (h : s.Consistent) (hr : t.LinesReplay)
    (hc : t.cfg = s.cfg) (hv : t.rx.view = s.rx.view) (heard : ∀ frames, s.Hears frames → t.Hears frames) :
    t.WireAgrees :=
  h.wireAgrees [] hr hc hv fun frames => by simpa using heard frames

/-- Inside a transaction a frame is open. -/
theorem State.FrameFollowsPhase.open (hf : s.FrameFollowsPhase) (hp : InTransaction s) : ∃ f, s.rx.frame = some f := by
  obtain hp | hp := hp
  · simp only [State.FrameFollowsPhase, hp] at hf
    exact ⟨_, hf⟩
  · simp only [State.FrameFollowsPhase, hp] at hf
    obtain ⟨first, rest, frame⟩ := hf
    exact ⟨_, frame⟩

/-- A sequence keeps the invariant: its parts are kept each, and the sequence is heard. -/
theorem consistent_kept : Kept State.Consistent where
  told _ _ _ _ h := ⟨h.lines, h.frame, h.display, h.replay, h.wire⟩
  delay s h :=
    have replay := linesReplay_kept.delay s h.replay
    ⟨linesFollowPhase_kept.delay s h.lines, frameFollowsPhase_kept.delay s h.frame,
      displayInRange_kept.delay s h.display, replay,
      h.wireAgrees_of_no_frame replay rfl rfl fun _ hears => hears.delay⟩
  start s hp h :=
    have replay := linesReplay_kept.start s hp h.replay
    ⟨linesFollowPhase_kept.start s hp h.lines, frameFollowsPhase_kept.start s hp h.frame,
      displayInRange_kept.start s hp h.display, replay,
      h.wireAgrees_of_no_frame replay rfl rfl fun _ hears => hears.startCondition hp h.lines h.frame⟩
  byte s b hp h :=
    have replay := linesReplay_kept.byte s b hp h.replay
    ⟨linesFollowPhase_kept.byte s b hp h.lines, frameFollowsPhase_kept.byte s b hp h.frame,
      displayInRange_kept.byte s b hp h.display, replay,
      h.wireAgrees_of_no_frame replay (by rw [State.sendByte_eq]) (by rw [State.sendByte_eq]; rfl)
        fun _ hears => hears.sendByte b hp h.lines h.frame⟩
  stop s hp h := by
    have replay := linesReplay_kept.stop s hp h.replay
    obtain ⟨f, hf⟩ := h.frame.open hp
    have view : s.stopCondition.rx.view = s.rx.view.complete s.cfg f := by
      simp [State.stopCondition_eq, Receiver.closeFrame, hf]
    exact ⟨linesFollowPhase_kept.stop s hp h.lines, frameFollowsPhase_kept.stop s hp h.frame,
      displayInRange_kept.stop s hp h.display, replay,
      h.wireAgrees [f] replay (by rw [State.stopCondition_eq]) view
        fun _ hears => hears.stopCondition hp h.lines hf⟩
  begun s hp h :=
    have replay := linesReplay_kept.begun s hp h.replay
    ⟨linesFollowPhase_kept.begun s hp h.lines, frameFollowsPhase_kept.begun s hp h.frame,
      displayInRange_kept.begun s hp h.display, replay,
      h.wireAgrees_of_no_frame replay rfl rfl fun _ hears => hears.begun hp h.lines⟩
  closed s hp h :=
    have replay := linesReplay_kept.closed s hp h.replay
    ⟨linesFollowPhase_kept.closed s hp h.lines, frameFollowsPhase_kept.closed s hp h.frame,
      displayInRange_kept.closed s hp h.display, replay,
      h.wireAgrees_of_no_frame replay rfl rfl fun _ hears => hears.closed hp h.lines⟩

end

/-- Settles O57: each sequence that instructions are made of keeps the invariant, and the requests are no part of it. -/
theorem stepKeepsConsistent : Obligations.StepKeepsConsistent := by
  unfold Obligations.StepKeepsConsistent
  exact fun s t h ht => consistent_kept.step (fun s _ h => ⟨h.lines, h.frame, h.display, h.replay, h.wire⟩) ht h

/-- Every construction is consistent: nothing is done, nothing heard and the view unknown. -/
theorem ofConfig_consistent (c : Config) : (State.ofConfig c).Consistent where
  lines := ⟨rfl, rfl⟩
  frame := rfl
  display := ⟨List.Pairwise.nil, fun _ h => nomatch h⟩
  replay := ⟨rfl, rfl, rfl, rfl⟩
  wire := by
    refine ⟨fun w h => ?_, ?_⟩
    · obtain ⟨-, rfl⟩ := received_eq_some.mp h
      exact ⟨rfl, rfl, rfl, rfl⟩
    · cases hs : c.slowEnough with
      | true => exact viewOfTrace_claimed hs
      | false => exact viewOfTrace_unclaimed hs

/-- Settles O55: reset is a construction, and every construction is consistent. -/
theorem resetIsConsistent : Obligations.ResetIsConsistent := by
  unfold Obligations.ResetIsConsistent
  exact ⟨ofConfig_consistent _, ofConfig_consistent⟩

/-! ### SETSEGMENTS on the wire -/

section
variable {s : State} {frames : List (List (Byte × Bool))}

/-- Bytes sent in a row are heard. -/
theorem State.Hears.sendBytes {bytes : List Byte} (hp : InTransaction s) (hl : s.LinesFollowPhase)
    (hf : s.FrameFollowsPhase) (h : s.Hears frames) : (s.sendBytes bytes).2.Hears frames := by
  induction bytes generalizing s with
  | nil => exact h
  | cons b bs ih =>
    exact ih (.inr (State.sendByte_phase b s)) (linesFollowPhase_kept.byte s b hp hl)
      (frameFollowsPhase_kept.byte s b hp hf) (h.sendByte b hp hl hf)

/-- START takes no sample. -/
theorem State.startCondition_sentFrom (k : Nat) (bytes : List Byte) :
    s.startCondition.sentFrom k bytes = s.sentFrom k bytes := by
  simp [State.sentFrom, State.sampleAt, State.startCondition_eq]

/-- Bytes sent after START are those of the open frame, with their acknowledgements. -/
theorem State.startCondition_sendBytes_frame (bytes : List Byte) :
    (s.startCondition.sendBytes bytes).2.rx.frame = some (acked (s.sentFrom 0 bytes)) := by
  obtain ⟨-, clk, dio, phase, sent⟩ := State.sendBytes_spec bytes s.startCondition
  rw [sent, State.startCondition_sentFrom, State.startCondition_eq]
  rfl

/-- A transaction is heard as one frame. -/
theorem State.Hears.transaction (bytes : List Byte) (hp : s.phase = .idle) (hl : s.LinesFollowPhase)
    (hf : s.FrameFollowsPhase) (h : s.Hears frames) :
    (s.transaction bytes).2.Hears (frames ++ [acked (s.sentFrom 0 bytes)]) := by
  have started : InTransaction s.startCondition := .inl (State.startCondition_phase s)
  have lines := linesFollowPhase_kept.start s hp hl
  have heard := (h.startCondition hp hl hf).sendBytes (bytes := bytes) started lines
    (frameFollowsPhase_kept.start s hp hf)
  exact heard.stopCondition (State.sendBytes_inTransaction started) (linesFollowPhase_kept.sendBytes started lines)
    (State.startCondition_sendBytes_frame bytes)

/-- SETSEGMENTS is heard as its two frames. -/
theorem State.Hears.sendSegments (bytes : List Byte) (pos : Byte) (hp : s.phase = .idle) (hl : s.LinesFollowPhase)
    (hf : s.FrameFollowsPhase) (h : s.Hears frames) :
    (s.sendSegments bytes pos).2.Hears (frames ++ [acked (s.sentFrom 0 [dataCommand s.cfg]),
      acked (s.sentFrom 1 (addressCommand s.cfg pos :: bytes))]) := by
  have idle : (s.transaction [dataCommand s.cfg]).2.phase = .idle := by rw [State.transaction_eq]
  have later := State.sentFrom_later (s := s) (t := (s.transaction [dataCommand s.cfg]).2) (n := 1)
    (by rw [State.transaction_eq]; rfl) (by rw [State.transaction_eq]; rfl) 0 (addressCommand s.cfg pos :: bytes)
  have heard := (h.transaction [dataCommand s.cfg] hp hl hf).transaction (addressCommand s.cfg pos :: bytes) idle
    (linesFollowPhase_kept.transaction hp hl) (frameFollowsPhase_kept.transaction hp hf)
  rw [State.sendSegments_snd]
  simpa [later] using heard

end

/-- Settles O58: SETSEGMENTS is heard as its two frames, and the frames heard are those of the wire trace. -/
theorem setSegmentsFramesOnTheWire : Obligations.SetSegmentsFramesOnTheWire := by
  unfold Obligations.SetSegmentsFramesOnTheWire
  intro s buffer len pos h hf hp hpos hlen hn
  have sends := State.setSegments_pass (op := opSetSegments) hf hp (outOfRange_eq_false hpos hlen hn)
  refine ⟨_, sends, fun before claimed => ?_⟩
  obtain ⟨slow, rfl⟩ := framesOfTrace_eq_some.mp claimed
  obtain ⟨frames, hears, -⟩ := (State.wireAgrees_iff_hears slow h.replay).mp h.wire
  have heard := hears.sendSegments (buffer.take len.toNat) pos hp h.lines h.frame
  refine framesOfTrace_eq_some.mpr ⟨by rwa [State.reply_cfg, State.sendSegments_eq], ?_⟩
  rw [State.reply_trace, heard.frames_eq, hears.frames_eq, ← ackOf_eq_decide]
  rfl

end Sys2Proof.Machine
end

section
/-! Operation records (30_encoding.md section 1): a reader that reads exactly the bytes of a value and asks for all of
them, the readers of the arguments and their sequence, and the statements on records. -/

namespace Sys2Proof

/-- A reader reads exactly `bytes` as `v`: with anything after them it answers `v` and what is after, and a proper
beginning of them ends early (R71). -/
structure Reads {α : Type} (reader : List Byte → Except DecodeError (α × List Byte)) (bytes : List Byte) (v : α) :
    Prop where
  whole : ∀ rest, reader (bytes ++ rest) = .ok (v, rest)
  early : ∀ n < bytes.length, reader (bytes.take n) = .error .endsEarly

/-- With nothing to read a reader answers at once. -/
theorem Reads.done {α : Type} (v : α) : Reads (fun l => .ok (v, l)) [] v where
  whole _ := rfl
  early _ h := absurd h (Nat.not_lt_zero _)

/-- One reader after the other reads one's bytes and then the other's. -/
theorem Reads.bind {α β : Type} {first : List Byte → Except DecodeError (α × List Byte)} {b b' : List Byte} {v : α}
    {w : β} {next : α × List Byte → Except DecodeError (β × List Byte)} (h : Reads first b v)
    (h' : Reads (fun l => next (v, l)) b' w) : Reads (fun l => first l >>= next) (b ++ b') w where
  whole rest := by
    rw [List.append_assoc, h.whole]
    exact h'.whole rest
  early n hn := by
    rw [List.take_append]
    by_cases hb : n < b.length
    · rw [Nat.sub_eq_zero_of_le hb.le, List.take_zero, List.append_nil, h.early n hb]
      rfl
    · rw [List.length_append] at hn
      rw [List.take_of_length_le (not_lt.mp hb), h.whole]
      exact h'.early (n - b.length) (by omega)

/-- One byte is read, and none is too early. -/
theorem reads_takeU8 (b : Byte) : Reads takeU8 [b] b where
  whole _ := rfl
  early n hn := by
    obtain rfl : n = 0 := by simpa using hn
    rfl

/-- So for a bool's byte. -/
theorem reads_takeBool (b : Bool) : Reads takeBool [putBool b] b where
  whole := takeBool_putBool b
  early n hn := by
    obtain rfl : n = 0 := by simpa using hn
    rfl

/-- Four bytes are read, and fewer are too early. -/
theorem reads_takeI32 (v : BitVec 32) : Reads takeI32 (putI32 v) v where
  whole := takeI32_putI32 v
  early n hn := by
    change n < 4 at hn
    interval_cases n <;> rfl

/-- A `bytes` is read to its last element: its length byte asks for all of them. -/
theorem reads_takeBytes {l : List Byte} (h : l.length ≤ 255) : Reads takeBytes (putBytes l) l where
  whole rest := takeBytes_putBytes rest h
  early n hn := by
    cases n with
    | zero => rfl
    | succ n =>
      have length_kept : (BitVec.ofNat 8 l.length).toNat = l.length := by
        rw [BitVec.toNat_ofNat]
        omega
      have short : ¬l.length ≤ (l.take n).length := by
        rw [putBytes, List.length_cons] at hn
        rw [List.length_take]
        omega
      rw [putBytes, List.take_succ_cons, takeBytes, length_kept, if_neg short]

/-- A last byte argument completes what is read before it. -/
theorem reads_takeU8_last {α : Type} (f : Byte → α) (b : Byte) :
    Reads (fun l => takeU8 l >>= fun x => .ok (f x.1, x.2)) [b] (f b) :=
  (reads_takeU8 b).bind (.done (f b))

/-- So does a last bool argument. -/
theorem reads_takeBool_last {α : Type} (f : Bool → α) (b : Bool) :
    Reads (fun l => takeBool l >>= fun x => .ok (f x.1, x.2)) [putBool b] (f b) :=
  (reads_takeBool b).bind (.done (f b))

/-! ### Records -/

/-- An operation's record after its id is read as its arguments. -/
theorem reads_takeArguments (c : Config) {i : Instr} (hi : i.isOperation = true) (hw : i.WellFormed) :
    ∃ op args, encode c i = op :: args ∧ Reads (takeArguments op) args i := by
  have fits {l : List Byte} (h : fitsLengthByte l = true) : l.length ≤ 255 := of_decide_eq_true h
  cases i with
  | start | stop | bitDelay | encData | displayBegin | displayClose | displayClear => exact ⟨_, _, rfl, .done _⟩
  | writeByte b | encAddr b | encodeCharacter b => exact ⟨_, _, rfl, reads_takeU8_last _ _⟩
  | encDisp level on | setBrightness level on =>
    exact ⟨_, _, rfl, (reads_takeU8 level).bind (reads_takeBool_last _ on)⟩
  | encodeDecimal v lz len =>
    exact ⟨_, _, rfl, (reads_takeI32 v).bind <| (reads_takeBool lz).bind <| reads_takeU8_last _ len⟩
  | encodeDecimalWithDot v m lz len =>
    exact ⟨_, _, rfl, (reads_takeI32 v).bind <| (reads_takeU8 m).bind <| (reads_takeBool lz).bind <|
      reads_takeU8_last _ len⟩
  | displayDecimal v lz len pos =>
    exact ⟨_, _, rfl, (reads_takeI32 v).bind <| (reads_takeBool lz).bind <| (reads_takeU8 len).bind <|
      reads_takeU8_last _ pos⟩
  | displayDecimalWDot v m lz len pos =>
    exact ⟨_, _, rfl, (reads_takeI32 v).bind <| (reads_takeU8 m).bind <| (reads_takeBool lz).bind <|
      (reads_takeU8 len).bind <| reads_takeU8_last _ pos⟩
  | encodeString text m len pos | displayString text m len pos =>
    exact ⟨_, _, rfl, (reads_takeBytes (fits hw)).bind <| (reads_takeU8 m).bind <| (reads_takeU8 len).bind <|
      reads_takeU8_last _ pos⟩
  | setSegments buffer len pos =>
    exact ⟨_, _, rfl, (reads_takeBytes (fits hw)).bind <| (reads_takeU8 len).bind <| reads_takeU8_last _ pos⟩
  | wireCmdData | wireCmdAddr | wireCmdDisp | wireSegment => cases hi

/-- An operation's record is read as the operation. -/
theorem reads_takeInstr (c : Config) {i : Instr} (hi : i.isOperation = true) (hw : i.WellFormed) :
    Reads takeInstr (encode c i) i := by
  obtain ⟨op, args, record, h⟩ := reads_takeArguments c hi hw
  rw [record]
  refine ⟨h.whole, fun n hn => ?_⟩
  cases n with
  | zero => rfl
  | succ n => exact h.early n (by simpa using hn)

/-- A record is refused by the name its operation is refused by. -/
theorem decodeRecord_of_takeInstr_error {record : List Byte} {e : DecodeError} (h : takeInstr record = .error e) :
    decodeRecord record = .error e := by
  simp only [decodeRecord, h]

/-- A byte that is no bool is refused by name, whatever comes after it. -/
theorem takeBool_malformed {b : Byte} (rest : List Byte) (h : 2 ≤ b.toNat) :
    takeBool (b :: rest) = .error (.malformedBool b) := by
  have not_false : b ≠ 0x00 := fun hb => absurd (hb ▸ h) (by decide)
  have not_true : b ≠ 0x01 := fun hb => absurd (hb ▸ h) (by decide)
  simp only [takeBool, not_false, not_true, if_false]

/-- A record in which a bool is read next is refused by the name of the malformed bool. -/
theorem decodeRecord_malformedBool {op b : Byte} {args rest : List Byte}
    {next : Bool × List Byte → Except DecodeError (Instr × List Byte)} (hb : 2 ≤ b.toNat)
    (h : takeArguments op args = takeBool (b :: rest) >>= next) :
    decodeRecord (op :: args) = .error (.malformedBool b) := by
  refine decodeRecord_cons_of_takeArguments_error (h.trans ?_)
  rw [takeBool_malformed rest hb]
  rfl

namespace Machine

/-- Settles O9: the operation's record is read whole, with no byte left over. -/
theorem recordDecodeEncodeAgree : Obligations.RecordDecodeEncodeAgree := by
  unfold Obligations.RecordDecodeEncodeAgree
  intro c i hw hi
  have read := (reads_takeInstr c hi hw).whole []
  rw [List.append_nil] at read
  simp only [decodeRecord, read]

/-- Settles O13: an operation is read from its record alone, so bytes after it are left over; a beginning of the record
ends early; and in the six operations with a bool all before it is read, whatever it is. -/
theorem malformedRecordsRefused : Obligations.MalformedRecordsRefused := by
  unfold Obligations.MalformedRecordsRefused
  refine ⟨fun c i b rest hw hi => ?_, fun c i n hw hi hn => ?_, fun b level rest hb => ?_,
    fun b v0 v1 v2 v3 m rest hb => ?_⟩
  · simp only [decodeRecord, (reads_takeInstr c hi hw).whole]
  · exact decodeRecord_of_takeInstr_error ((reads_takeInstr c hi hw).early n hn)
  · exact ⟨decodeRecord_malformedBool hb rfl, decodeRecord_malformedBool hb rfl⟩
  · exact ⟨decodeRecord_malformedBool hb rfl, decodeRecord_malformedBool hb rfl, decodeRecord_malformedBool hb rfl,
      decodeRecord_malformedBool hb rfl⟩

/-- Settles O11: each word is a closed record or byte, which the decoder evaluates. -/
theorem specWordsDecode : Obligations.SpecWordsDecode := by
  unfold Obligations.SpecWordsDecode
  decide

/-! ### Requests -/

/-- A record request spells what its record spells. -/
theorem decodeRequest_record_of_ok {bytes : List Byte} {i : Instr} (s : State) (h : decodeRecord bytes = .ok i) :
    decodeRequest s (.record bytes) = .ok i := by
  simp only [decodeRequest, h]

/-- Without a recorded fault, a step on a request that spells an instruction executes it. -/
theorem step_of_decodeRequest_ok {s : State} {r : Request} {rest : List Request} {i : Instr} (hf : s.fault = none)
    (hr : s.requests = r :: rest) (h : decodeRequest s r = .ok i) : step s = exec i { s with requests := rest } := by
  simp only [step, fetch, hf, hr, h]

/-- Settles O14: the first request is decoded and executed, a record by the record decoder; with none the step waits. -/
theorem stepRunsTheDecodedInstruction : Obligations.StepRunsTheDecodedInstruction := by
  unfold Obligations.StepRunsTheDecodedInstruction
  refine ⟨fun s r rest i => step_of_decodeRequest_ok, fun s bytes rest i hf hr h => ?_, fun s hf hr => ?_⟩
  · exact step_of_decodeRequest_ok hf hr (decodeRequest_record_of_ok s h)
  · simp only [step, fetch, hf, hr]

end Machine

end Sys2Proof
end

section
/-! The command bytes (30_encoding.md section 2, 41_command_encoder.md R131): each family's byte is read back as its
family and operands, and a byte of no family as none. -/

namespace Sys2Proof

open Sys2Proof.Claims

/-! ### Bits of the command parameters -/

/-- Bytes with no bit in common have none at any place. -/
theorem getElem_and_getElem_of_and_eq_zero {x y : Byte} (h : x &&& y = 0) {i : Nat} (hi : i < 8) :
    (x[i] && y[i]) = false := by
  rw [← BitVec.getElem_and, h]
  exact BitVec.getElem_zero hi

/-- The low three bits of a byte as a byte. -/
theorem setWidth_three_eight (b : Byte) : (b.setWidth 3).setWidth 8 = b &&& 0x07 := by
  rw [← Machine.brightnessLevel_setWidth, Machine.brightnessLevel_eq_extractLsb',
    ← BitVec.setWidth_eq_extractLsb' (by decide)]

/-- Three bits survive in a byte. -/
theorem setWidth_eight_three (p : BitVec 3) : (p.setWidth 8).setWidth 3 = p := by
  revert p
  decide

/-- A byte with the low three bits of `p` has `p` as its low three bits. -/
theorem setWidth_three_of_and_seven {b : Byte} {p : BitVec 3} (h : b &&& 0x07 = p.setWidth 8) : b.setWidth 3 = p := by
  rw [← setWidth_eight_three (b.setWidth 3), setWidth_three_eight, h, setWidth_eight_three]

/-- Three bits have none above. -/
theorem setWidth_eight_and_not_seven (p : BitVec 3) : p.setWidth 8 &&& ~~~(0x07 : Byte) = 0 := by
  revert p
  decide

/-- The on field has no bit outside DISP_ON_BIT. -/
theorem onField_and_not (c : Config) (on : Bool) : (if on then c.dispOnBit else 0) &&& ~~~c.dispOnBit = 0 := by
  cases on <;> simp

section
variable {c : Config} (hl : c.Legal)
include hl

/-- A legal configuration has legal command parameters. -/
theorem Config.commandsLegal_of_legal : c.commandsLegal = true :=
  (Bool.and_eq_true_iff.mp (Bool.and_eq_true_iff.mp hl).1).2

/-- The command parameters leave the three low bits free, and the on bit is no bit of the display base (R131). -/
theorem Config.bits_of_legal {i : Nat} (hi : i < 8) :
    (c.cmdAddrBase[i] && (0x07 : Byte)[i]) = false ∧ (c.cmdDispBase[i] && (0x07 : Byte)[i]) = false ∧
      (c.dispOnBit[i] && (0x07 : Byte)[i]) = false ∧ (c.dispOnBit[i] && c.cmdDispBase[i]) = false := by
  obtain ⟨addr, disp, -, on, apart⟩ := Config.commandsLegal_iff.mp (Config.commandsLegal_of_legal hl)
  exact ⟨getElem_and_getElem_of_and_eq_zero addr hi, getElem_and_getElem_of_and_eq_zero disp hi,
    getElem_and_getElem_of_and_eq_zero on hi, getElem_and_getElem_of_and_eq_zero apart hi⟩

/-- The address command's base and position are read off its byte. -/
theorem addressByte_fields (pos : BitVec 3) :
    (c.cmdAddrBase ||| pos.setWidth 8) &&& 0xF8 = c.cmdAddrBase ∧
      (c.cmdAddrBase ||| pos.setWidth 8) &&& 0x07 = pos.setWidth 8 := by
  have high : (0xF8 : Byte) = ~~~0x07 := rfl
  constructor <;> ext i hi
  all_goals
    have := getElem_and_getElem_of_and_eq_zero (setWidth_eight_and_not_seven pos) hi
    obtain ⟨addr, -⟩ := Config.bits_of_legal hl hi
    simp only [high, BitVec.getElem_and, BitVec.getElem_or, BitVec.getElem_not] at *
    grind

/-- The display-control command's base, on field and level are read off its byte. -/
theorem displayByte_fields (on : Bool) (level : BitVec 3) :
    (c.cmdDispBase ||| (if on then c.dispOnBit else 0) ||| level.setWidth 8) &&& ~~~(0x07 ||| c.dispOnBit) =
        c.cmdDispBase ∧
      (c.cmdDispBase ||| (if on then c.dispOnBit else 0) ||| level.setWidth 8) &&& c.dispOnBit =
        (if on then c.dispOnBit else 0) ∧
      (c.cmdDispBase ||| (if on then c.dispOnBit else 0) ||| level.setWidth 8) &&& 0x07 = level.setWidth 8 := by
  have on_field := onField_and_not c on
  generalize (if on then c.dispOnBit else 0) = field at *
  refine ⟨?_, ?_, ?_⟩ <;> ext i hi
  all_goals
    have := getElem_and_getElem_of_and_eq_zero (setWidth_eight_and_not_seven level) hi
    have := getElem_and_getElem_of_and_eq_zero on_field hi
    obtain ⟨-, disp, bit, apart⟩ := Config.bits_of_legal hl hi
    simp only [BitVec.getElem_and, BitVec.getElem_or, BitVec.getElem_not] at *
    grind

end

/-- A byte is its high five bits and its low three. -/
theorem eq_high_or_low (b : Byte) : b = (b &&& 0xF8) ||| (b &&& 0x07) := by
  have high : (0xF8 : Byte) = ~~~0x07 := rfl
  ext i hi
  simp only [high, BitVec.getElem_and, BitVec.getElem_or, BitVec.getElem_not]
  grind

/-- A byte is its bits outside the fields of a display-control command, its on field and its low three bits. -/
theorem eq_base_or_on_or_low (b bit : Byte) : b = (b &&& ~~~(0x07 ||| bit)) ||| (b &&& bit) ||| (b &&& 0x07) := by
  ext i hi
  simp only [BitVec.getElem_and, BitVec.getElem_or, BitVec.getElem_not]
  grind

/-- The bits outside the display-control fields are among the high five. -/
theorem and_high_and_base (b bit : Byte) : b &&& 0xF8 &&& ~~~(0x07 ||| bit) = b &&& ~~~(0x07 ||| bit) := by
  have high : (0xF8 : Byte) = ~~~0x07 := rfl
  ext i hi
  simp only [high, BitVec.getElem_and, BitVec.getElem_or, BitVec.getElem_not]
  grind

/-! ### The family of a command byte -/

/-- The data command is tried first. -/
theorem wireCommand_data (c : Config) : wireCommand c c.cmdData = some .data := if_pos rfl

/-- No byte is of two families (log entry 14). -/
theorem Config.familiesDistinct_iff {c : Config} : c.familiesDistinct = true ↔
    c.cmdData &&& 0xF8 ≠ c.cmdAddrBase ∧ c.cmdData &&& ~~~(0x07 ||| c.dispOnBit) ≠ c.cmdDispBase ∧
      c.cmdAddrBase &&& ~~~(0x07 ||| c.dispOnBit) ≠ c.cmdDispBase := by
  simp [Config.familiesDistinct, and_assoc]

/-- The address command's byte is read as it. -/
theorem wireCommand_addr {c : Config} (hl : c.Legal) (hd : c.familiesDistinct = true) (pos : BitVec 3) :
    wireCommand c (c.cmdAddrBase ||| pos.setWidth 8) = some (.addr pos) := by
  obtain ⟨base, low⟩ := addressByte_fields hl pos
  obtain ⟨data_addr, -, -⟩ := Config.familiesDistinct_iff.mp hd
  have not_data : c.cmdAddrBase ||| pos.setWidth 8 ≠ c.cmdData := fun h => data_addr (h ▸ base)
  rw [wireCommand, if_neg not_data, if_pos base, setWidth_three_of_and_seven low]

/-- A byte of one bit is not zero. -/
theorem twoPow_ne_zero {k : Nat} (hk : k < 8) : BitVec.twoPow 8 k ≠ 0 := fun h => by
  have set := BitVec.getLsbD_twoPow k k (w := 8)
  rw [h] at set
  simp [hk] at set

/-- The display-control command's byte is read as it. -/
theorem wireCommand_disp {c : Config} (hl : c.Legal) (hd : c.familiesDistinct = true) (on : Bool) (level : BitVec 3) :
    wireCommand c (c.cmdDispBase ||| (if on then c.dispOnBit else 0) ||| level.setWidth 8) =
      some (.disp on level) := by
  obtain ⟨base, field, low⟩ := displayByte_fields hl on level
  obtain ⟨-, data_disp, addr_disp⟩ := Config.familiesDistinct_iff.mp hd
  obtain ⟨-, -, ⟨k, hk, bit⟩, -⟩ := Config.commandsLegal_iff.mp (Config.commandsLegal_of_legal hl)
  have bit_ne : c.dispOnBit ≠ 0 := bit ▸ twoPow_ne_zero hk
  generalize c.cmdDispBase ||| (if on then c.dispOnBit else 0) ||| level.setWidth 8 = b at *
  have not_data : b ≠ c.cmdData := fun h => data_disp (h ▸ base)
  have not_addr : b &&& 0xF8 ≠ c.cmdAddrBase := fun h => addr_disp (by rw [← h, and_high_and_base, base])
  have is_on : (b &&& c.dispOnBit != 0) = on := by
    rw [field]
    cases on
    · rfl
    · exact bne_iff_ne.mpr bit_ne
  rw [wireCommand, if_neg not_data, if_neg not_addr, if_pos base, is_on, setWidth_three_of_and_seven low]

/-- A byte read as an address command is the address command of its position. -/
theorem eq_addressByte_of_wireCommand {c : Config} {b : Byte} {pos : BitVec 3}
    (h : wireCommand c b = some (.addr pos)) : b = c.cmdAddrBase ||| pos.setWidth 8 := by
  unfold wireCommand at h
  split at h
  · cases h
  · split at h
    next base =>
      cases h
      rw [setWidth_three_eight, ← base]
      exact eq_high_or_low b
    next => split at h <;> cases h

/-- Masked with a byte of one bit a byte is that bit or nothing. -/
theorem and_eq_zero_or_self {b bit : Byte} (h : oneBit bit = true) : b &&& bit = 0 ∨ b &&& bit = bit := by
  obtain ⟨k, hk, rfl⟩ := oneBit_iff.mp h
  rw [BitVec.and_twoPow]
  split
  · exact .inr rfl
  · exact .inl rfl

/-- A byte of none of the three families is read as no command. -/
theorem wireCommand_of_noCommand {c : Config} {b : Byte} (hl : c.Legal) (h : NoCommand c b) :
    wireCommand c b = none := by
  obtain ⟨not_data, not_addr, not_disp⟩ := h
  obtain ⟨-, -, bit, -⟩ := Config.commandsLegal_iff.mp (Config.commandsLegal_of_legal hl)
  have addr_base : b &&& 0xF8 ≠ c.cmdAddrBase := fun base => not_addr (b.setWidth 3) <| by
    rw [setWidth_three_eight, ← base]
    exact eq_high_or_low b
  have disp_base : b &&& ~~~(0x07 ||| c.dispOnBit) ≠ c.cmdDispBase := fun base => by
    have parts := eq_base_or_on_or_low b c.dispOnBit
    rw [base, ← setWidth_three_eight] at parts
    obtain off | on := and_eq_zero_or_self (b := b) (oneBit_iff.mpr bit)
    · exact not_disp false _ (off ▸ parts)
    · exact not_disp true _ (by rw [on] at parts; exact parts)
  rw [wireCommand, if_neg not_data, if_neg addr_base, if_neg disp_base]

/-! ### Segment bytes -/

/-- The bits of a segment byte are its segments, from a at bit 0 up to dp at bit 7 (R79). -/
theorem segmentByte_bits (dp g f e d c b a : Bool) :
    (segmentByte dp g f e d c b a).getLsbD 0 = a ∧ (segmentByte dp g f e d c b a).getLsbD 1 = b ∧
      (segmentByte dp g f e d c b a).getLsbD 2 = c ∧ (segmentByte dp g f e d c b a).getLsbD 3 = d ∧
      (segmentByte dp g f e d c b a).getLsbD 4 = e ∧ (segmentByte dp g f e d c b a).getLsbD 5 = f ∧
      (segmentByte dp g f e d c b a).getLsbD 6 = g ∧ (segmentByte dp g f e d c b a).getLsbD 7 = dp := by
  have bits (i : Nat) : (segmentByte dp g f e d c b a).getLsbD i = _ := BitVec.getLsbD_append
  simp only [BitVec.getLsbD_append] at bits
  simp only [bits]
  simp

/-- A segment byte is read as its segments. -/
theorem segmentInstr_segmentByte (dp g f e d c b a : Bool) :
    segmentInstr (segmentByte dp g f e d c b a) = .wireSegment dp g f e d c b a := by
  obtain ⟨b0, b1, b2, b3, b4, b5, b6, b7⟩ := segmentByte_bits dp g f e d c b a
  rw [segmentInstr, b0, b1, b2, b3, b4, b5, b6, b7]

/-- Every byte is the segment byte of its bits. -/
theorem segmentByte_getLsbD (v : Byte) :
    segmentByte (v.getLsbD 7) (v.getLsbD 6) (v.getLsbD 5) (v.getLsbD 4) (v.getLsbD 3) (v.getLsbD 2) (v.getLsbD 1)
      (v.getLsbD 0) = v := by
  obtain ⟨b0, b1, b2, b3, b4, b5, b6, b7⟩ := segmentByte_bits (v.getLsbD 7) (v.getLsbD 6) (v.getLsbD 5)
    (v.getLsbD 4) (v.getLsbD 3) (v.getLsbD 2) (v.getLsbD 1) (v.getLsbD 0)
  refine BitVec.eq_of_getLsbD_eq fun i hi => ?_
  interval_cases i <;> assumption

namespace Machine

/-- Settles O10: each command byte is read as its family, and a segment byte as its bits, which are any byte's. -/
theorem wireByteDecodeEncodeAgree : Obligations.WireByteDecodeEncodeAgree := by
  unfold Obligations.WireByteDecodeEncodeAgree
  refine ⟨fun c i hl hd hi => ?_, fun c v => ⟨segmentInstr v, rfl, congrArg ([·]) (segmentByte_getLsbD v)⟩⟩
  cases i with
  | wireCmdData => exact ⟨_, rfl, by simp only [wirePlace, decodeWire, wireCommand_data]⟩
  | wireCmdAddr pos => exact ⟨_, rfl, by simp only [wirePlace, decodeWire, wireCommand_addr hl hd]⟩
  | wireCmdDisp on level => exact ⟨_, rfl, by simp only [wirePlace, decodeWire, wireCommand_disp hl hd]⟩
  | wireSegment => exact ⟨_, rfl, congrArg Except.ok (segmentInstr_segmentByte ..)⟩
  | _ => cases hi

/-! ### Wire bytes in and outside their place -/

/-- The display-control command of a level of three bits. -/
theorem displayCommand_setWidth (c : Config) (on : Bool) (level : BitVec 3) : displayCommand c (level.setWidth 8) on =
    c.cmdDispBase ||| (if on then c.dispOnBit else 0) ||| level.setWidth 8 := by
  rw [displayCommand_eq, ← setWidth_three_eight, setWidth_eight_three]

/-- A byte sent by its kind in an open frame completes, and as WRITEBYTE of the byte. -/
theorem sendWire_as_writeByte {s : State} (b : Byte) (hf : s.fault = none) (hp : InTransaction s) :
    ∃ t, s.sendWire b = .next t ∧ exec (.writeByte b) s = .next t :=
  ⟨_, State.sendWire_pass hf hp, State.sendWire_pass hf hp⟩

/-- Settles O43: each kind sends its byte as WRITEBYTE does. -/
theorem wireByteKindsAreSent : Obligations.WireByteKindsAreSent := by
  unfold Obligations.WireByteKindsAreSent
  refine fun s hf hp => ⟨sendWire_as_writeByte _ hf hp, fun pos => sendWire_as_writeByte _ hf hp, fun on level => ?_,
    fun v => ?_⟩
  · rw [exec_wireCmdDisp, displayCommand_setWidth]
    exact sendWire_as_writeByte _ hf hp
  · rw [exec_wireSegment, segmentByte_getLsbD]
    exact sendWire_as_writeByte v hf hp

/-- A wire byte kind raises what WRITEBYTE raises outside a frame. -/
theorem raises_of_wireByte {i : Instr} (hi : i.isOperation = false) {s : State} (hf : s.fault = none) :
    (NotOpen s → Raises i s .notOpen) ∧ (s.phase = .idle → Raises i s .framing) := by
  have checked {b : Byte} (he : exec i s = s.sendWire b) :
      (NotOpen s → Raises i s .notOpen) ∧ (s.phase = .idle → Raises i s .framing) :=
    ⟨raises_notOpen_of_check he hf, fun hp =>
      raises_framing_of_check he hf (not_notOpen_of_idle hp) (inFrame_eq_false_of_idle hp)⟩
  cases i with
  | wireCmdData => exact checked (exec_wireCmdData s)
  | wireCmdAddr => exact checked (exec_wireCmdAddr _ s)
  | wireCmdDisp => exact checked (exec_wireCmdDisp _ _ s)
  | wireSegment => exact checked (exec_wireSegment _ _ _ _ _ _ _ _ s)
  | _ => cases hi

/-- A wire byte request is refused by the name its byte is refused by at its place. -/
theorem decodeRequest_wire_of_error {s : State} {b : Byte} {e : WireError}
    (h : decodeWire s.cfg (s.rx.place s.cfg) b = .error e) : decodeRequest s (.wire b) = .error (.wire e) := by
  simp only [decodeRequest, h]

/-- After a first byte that is no address command, a byte has no meaning. -/
theorem place_of_not_address {c : Config} {rx : Receiver} {first : Byte} {ack : Bool} {more : List (Byte × Bool)}
    (hf : rx.frame = some ((first, ack) :: more)) (h : ∀ pos : BitVec 3, first ≠ c.cmdAddrBase ||| pos.setWidth 8) :
    rx.place c = .noMeaning := by
  simp only [Receiver.place, hf]
  split
  next pos family => exact absurd (eq_addressByte_of_wireCommand family) (h pos)
  next => rfl

/-- Settles O44: a wire byte has WRITEBYTE's check, and where its place gives it no kind the decoder refuses it. -/
theorem wireByteOutsideItsPlace : Obligations.WireByteOutsideItsPlace := by
  unfold Obligations.WireByteOutsideItsPlace
  refine ⟨fun i s hi hf => raises_of_wireByte hi hf, fun s b rest hf hr frame hl hn => ?_,
    fun s b rest hf hr hplace => ?_⟩
  · refine step_of_decodeRequest_error hf hr (decodeRequest_wire_of_error ?_)
    have place : s.rx.place s.cfg = .command := by simp only [Receiver.place, frame]
    simp only [place, decodeWire, wireCommand_of_noCommand hl hn]
  · have refused : ∃ e, decodeWire s.cfg (s.rx.place s.cfg) b = .error e := by
      obtain frame | ⟨first, ack, more, frame, not_address⟩ := hplace
      · exact ⟨.outsideFrame, by simp only [Receiver.place, frame, decodeWire]⟩
      · exact ⟨.noMeaning, by simp only [place_of_not_address frame not_address, decodeWire]⟩
    obtain ⟨e, he⟩ := refused
    exact ⟨e, step_of_decodeRequest_error hf hr (decodeRequest_wire_of_error he)⟩

end Machine

end Sys2Proof
end

section
/-! The receiver view (40_protocol.md R118): the effect of each frame, the frames without a meaning, and what
SETSEGMENTS, SETBRIGHTNESS and STOP leave in the view. -/

namespace Sys2Proof.Machine

open Sys2Proof.Claims

/-! ### The effect of a frame -/

section
variable {c : Config} (v : View) (ack : Bool)

/-- A data command sets the write mode, or leaves it unknown where it was not acknowledged. -/
theorem View.complete_data (hs : c.slowEnough = true) :
    v.complete c [(c.cmdData, ack)] = { v with mode := if ack then some .autoIncrement else none } := by
  simp [View.complete, hs, wireCommand_data, frameAcked]

/-- A display-control command sets the on flag and the level, or leaves them unknown. -/
theorem View.complete_disp (hl : c.Legal) (hd : c.familiesDistinct = true) (hs : c.slowEnough = true) (on : Bool)
    (level : BitVec 3) :
    v.complete c [(c.cmdDispBase ||| (if on then c.dispOnBit else 0) ||| level.setWidth 8, ack)] =
      { v with on := if ack then some on else none, level := if ack then some level else none } := by
  simp only [View.complete, hs, wireCommand_disp hl hd]
  cases ack <;> rfl

/-- An address frame has its effect on its positions. -/
theorem View.complete_addr (hl : c.Legal) (hd : c.familiesDistinct = true) (hs : c.slowEnough = true) (pos : BitVec 3)
    (payload : List (Byte × Bool)) :
    v.complete c ((c.cmdAddrBase ||| pos.setWidth 8, ack) :: payload) =
      v.address c (ack && frameAcked payload) pos.toNat (payload.map (·.1)) := by
  simp only [View.complete, hs, wireCommand_addr hl hd]
  rfl

end

/-- An address frame on the display changes the display memory alone. -/
theorem View.address_of_fits {c : Config} (v : View) (acked : Bool) {pos : Nat} {payload : List Byte}
    (hp : pos < c.digits) (hn : pos + payload.length ≤ c.digits) :
    v.address c acked pos payload = { v with
      disp := if acked ∧ v.mode = some .autoIncrement then v.disp.writeAll pos payload
        else v.disp.forgetAll pos payload.length } := by
  rw [View.address, if_neg (by omega)]
  split <;> rfl

/-- One that does not fit on the display leaves the whole view unknown (log entry 8). -/
theorem View.address_of_not_fits {c : Config} (v : View) (acked : Bool) {pos : Nat} {payload : List Byte}
    (h : c.digits ≤ pos ∨ c.digits < pos + payload.length) : v.address c acked pos payload = .unknown :=
  if_pos h

/-- Whatever was acknowledged, one on the display leaves every position outside its own (20_memory.md R52). -/
theorem View.address_read_outside {c : Config} (v : View) (acked : Bool) {pos : Nat} {payload : List Byte}
    (hp : pos < c.digits) (hn : pos + payload.length ≤ c.digits) {p : Nat} (ho : p < pos ∨ pos + payload.length ≤ p) :
    (v.address c acked pos payload).disp.read p = v.disp.read p := by
  rw [View.address_of_fits v acked hp hn]
  simp only
  split
  · rw [Memory.read_writeAll, if_neg (by omega)]
  · rw [Memory.read_forgetAll, if_neg (by omega)]

/-- Settles O21: each family's byte is read as the family, whose frame has that effect. -/
theorem frameEffectOnReceiverView : Obligations.FrameEffectOnReceiverView := by
  unfold Obligations.FrameEffectOnReceiverView
  refine ⟨fun _ => rfl, fun c v hl hd hs => ⟨fun ack => v.complete_data ack hs,
    fun on level ack => v.complete_disp ack hl hd hs on level, fun pos ack payload hp hn hm => ?_⟩⟩
  have fits : pos.toNat + (payload.map (·.1)).length ≤ c.digits := by rwa [List.length_map]
  rw [View.complete_addr v ack hl hd hs, View.address_of_fits v _ hp fits]
  refine ⟨rfl, fun p => ?_⟩
  have acked_iff : (ack && frameAcked payload) = true ↔ ack = true ∧ ∀ x ∈ payload, x.2 = true := by
    simp [frameAcked]
  simp only [hm, and_true, acked_iff]
  by_cases hack : ack = true ∧ ∀ x ∈ payload, x.2 = true
  · rw [if_pos hack, Memory.read_writeAll, List.length_map, if_pos hack, List.getElem?_map]
  · rw [if_neg hack, Memory.read_forgetAll, List.length_map, if_neg hack]

/-- A frame whose first byte is a data or display-control command has no effect but that command's. -/
theorem View.complete_second_byte {c : Config} (v : View) {first : Byte} {command : WireCommand}
    (hc : wireCommand c first = some command) (hn : ∀ pos, command ≠ .addr pos) (ack : Bool) (second : Byte × Bool)
    (more : List (Byte × Bool)) : v.complete c ((first, ack) :: second :: more) = .unknown := by
  cases command with
  | addr pos => exact absurd rfl (hn pos)
  | data | disp on level => simp only [View.complete, hc, ite_self]

/-- Settles O59: such a frame meets none of the rules of R118, and a delay that is too short meets none either. -/
theorem framesWithoutMeaningLeaveTheViewUnknown : Obligations.FramesWithoutMeaningLeaveTheViewUnknown := by
  unfold Obligations.FramesWithoutMeaningLeaveTheViewUnknown
  intro c v hl hd
  refine ⟨fun pos ack payload h => ?_, fun first ack payload h => ?_, fun first ack second more h => ?_,
    fun h frame => ?_, fun h0 hmin => ?_⟩
  · cases hs : c.slowEnough with
    | false => exact View.complete_unclaimed hs
    | true =>
      rw [View.complete_addr v ack hl hd hs]
      exact View.address_of_not_fits v _ (by rwa [List.length_map])
  · simp only [View.complete, wireCommand_of_noCommand hl h, ite_self]
    rfl
  · obtain rfl | ⟨on, level, rfl⟩ := h
    · exact v.complete_second_byte (wireCommand_data c) nofun ack second more
    · exact v.complete_second_byte (wireCommand_disp hl hd on level) nofun ack second more
  · refine View.complete_unclaimed ?_
    simp only [Config.slowEnough, Bool.and_eq_false_iff, decide_eq_false_iff_not]
    omega
  · have hs : c.slowEnough = true := by simp [Config.slowEnough, h0, hmin]
    simp [View.complete, hs]

/-! ### The display memory -/

/-- Two canonical memories that read alike are equal. -/
theorem Memory.ext_read {m m' : Memory} (h : m.wf) (h' : m'.wf) (hr : ∀ a, m.read a = m'.read a) : m = m' := by
  induction m generalizing m' with
  | nil =>
    cases m' with
    | nil => rfl
    | cons cell' m' => simpa [Memory.read] using hr cell'.1
  | cons cell m ih =>
    obtain ⟨k, v⟩ := cell
    cases m' with
    | nil => simpa [Memory.read] using hr k
    | cons cell' m' =>
      obtain ⟨k', v'⟩ := cell'
      obtain ⟨above, hm⟩ := Memory.wf_cons.mp h
      obtain ⟨above', hm'⟩ := Memory.wf_cons.mp h'
      have not_below {k k' : Nat} {v v' : Byte} {m m' : Memory} (above' : ∀ cell ∈ m', k' < cell.1)
          (hk : Memory.read ((k, v) :: m) k = Memory.read ((k', v') :: m') k) : ¬k < k' := fun hlt => by
        have unlisted : Memory.read ((k', v') :: m') k = none :=
          Memory.read_of_lt (List.forall_mem_cons.mpr ⟨hlt, fun cell hc => hlt.trans (above' cell hc)⟩)
        rw [unlisted] at hk
        simp [Memory.read] at hk
      obtain rfl : k = k' := by
        have := not_below above' (hr k)
        have := not_below above (hr k').symm
        omega
      have same_tail : m = m' := by
        refine ih hm hm' fun a => ?_
        by_cases ha : a = k
        · rw [ha, Memory.read_of_lt above, Memory.read_of_lt above']
        · simpa [Memory.read, Ne.symm ha] using hr a
      have same_byte : v = v' := by simpa [Memory.read] using hr k
      rw [same_tail, same_byte]

/-- The same bytes written twice are as written once. -/
theorem Memory.writeAll_writeAll {m : Memory} (h : m.wf) (a : Nat) (bs : List Byte) :
    (m.writeAll a bs).writeAll a bs = m.writeAll a bs := by
  refine Memory.ext_read (Memory.writeAll_wf (Memory.writeAll_wf h)) (Memory.writeAll_wf h) fun b => ?_
  rw [Memory.read_writeAll, Memory.read_writeAll]
  split <;> rfl

/-! ### An acknowledged SETSEGMENTS -/

/-- Bytes that are all acknowledged are sent with the level 0. -/
theorem State.sentFrom_low {s : State} {k : Nat} {bytes : List Byte}
    (h : ∀ i < bytes.length, s.sampleAt (k + i) = .low) :
    s.sentFrom k bytes = bytes.map fun b => (b, .low) := by
  apply List.ext_getElem
  · simp
  · intro i hi _
    simp [State.sentFrom, h i (by simpa using hi)]

/-- Bytes with their acknowledgements, all given. -/
def allAcked (bytes : List Byte) : List (Byte × Bool) := bytes.map fun b => (b, true)

/-- The level 0 acknowledges. -/
theorem acked_map_low (bytes : List Byte) : acked (bytes.map fun b => (b, Level.low)) = allAcked bytes := by
  simp [acked, allAcked, ackOf]

/-- A frame of acknowledged bytes is acknowledged. -/
@[simp] theorem frameAcked_allAcked (bytes : List Byte) : frameAcked (allAcked bytes) = true := by
  simp [frameAcked, allAcked]

/-- Its bytes are those given. -/
theorem allAcked_map_fst (bytes : List Byte) : (allAcked bytes).map (·.1) = bytes :=
  (List.map_map ..).trans (List.map_id bytes)

/-- The state in which SETSEGMENTS of `bytes` at `pos` ends where every byte is acknowledged, but for its reply. -/
def State.shown (bytes : List Byte) (pos : Byte) (s : State) : State :=
  { s with
    phase := .idle, clk := ⟨.output, .high⟩, dio := ⟨.output, .high⟩, lastAck := some true,
    trace := s.trace ++ (frameActions s.cfg.bitDelayUs [(dataCommand s.cfg, .low)] ++
      frameActions s.cfg.bitDelayUs ((addressCommand s.cfg pos :: bytes).map fun b => (b, .low))),
    rx := ⟨none, (s.rx.view.complete s.cfg [(dataCommand s.cfg, true)]).complete s.cfg
      (allAcked (addressCommand s.cfg pos :: bytes))⟩,
    samples := s.samples.drop (bytes.length + 2), draws := s.draws + (bytes.length + 2) }

/-- With every byte acknowledged the two frames lead there. -/
theorem State.sendSegments_acked {s : State} {bytes : List Byte} (pos : Byte)
    (h : ∀ k < bytes.length + 2, s.sampleAt k = .low) : (s.sendSegments bytes pos).2 = s.shown bytes pos := by
  have data : s.sentFrom 0 [dataCommand s.cfg] = [(dataCommand s.cfg, .low)] :=
    State.sentFrom_low fun i hi => h _ (by simp at hi; omega)
  have segments : s.sentFrom 1 (addressCommand s.cfg pos :: bytes) =
      (addressCommand s.cfg pos :: bytes).map fun b => (b, .low) :=
    State.sentFrom_low fun i hi => h _ (by simp at hi; omega)
  have last : lastAckOf s.lastAck (s.sentFrom 1 (addressCommand s.cfg pos :: bytes)) = some true := by
    rw [State.lastAckOf_sentFrom_cons, h _ (by omega)]
    rfl
  rw [State.sendSegments_eq]
  simp only [last]
  simp only [data, segments, acked_map_low, List.append_assoc]
  rfl

/-- So does the operation, in IDLE and in range. -/
theorem exec_setSegments_acked {s : State} {buffer : List Byte} {len pos : Byte} (hf : s.fault = none)
    (hp : s.phase = .idle) (hpos : pos.toNat < s.cfg.digits) (hlen : len.toNat ≤ s.cfg.digits - pos.toNat)
    (hn : len.toNat ≤ buffer.length) (low : ∀ k < len.toNat + 2, s.sampleAt k = .low) :
    ∃ r, exec (.setSegments buffer len pos) s = .next ((s.shown (buffer.take len.toNat) pos).reply r) := by
  have sent_length : (buffer.take len.toNat).length = len.toNat := List.length_take_of_le hn
  have sends := State.setSegments_pass (op := opSetSegments) hf hp (outOfRange_eq_false hpos hlen hn)
  rw [State.sendSegments_acked pos (by rwa [sent_length])] at sends
  exact ⟨_, sends⟩

/-- A frame that was acknowledged, after a data command that was, repeated has no further effect. -/
theorem View.complete_repeat {c : Config} {frame : List (Byte × Bool)} (ha : frameAcked frame = true) {v : View}
    (hw : v.disp.wf) (hm : v.mode = some .autoIncrement) :
    View.complete c frame { v.complete c frame with mode := some .autoIncrement } = v.complete c frame := by
  cases hs : c.slowEnough with
  | false => rw [View.complete_unclaimed hs, View.complete_unclaimed hs]
  | true =>
    have kept : { v with mode := some .autoIncrement } = v := by rw [← hm]
    cases frame with
    | nil => simpa [View.complete, hs] using kept
    | cons first payload =>
      cases hc : wireCommand c first.1 with
      | none => simp [View.complete, hs, hc]
      | some command =>
        cases command with
        | addr pos =>
          simp only [View.complete, hs, hc, ha]
          by_cases hfit : c.digits ≤ pos.toNat ∨ c.digits < pos.toNat + (payload.map (·.1)).length
          · simp [View.address_of_not_fits _ _ hfit]
          · rw [not_or, not_le, not_lt] at hfit
            obtain ⟨hp, hn⟩ := hfit
            simp [View.address_of_fits _ _ hp hn, hm, Memory.writeAll_writeAll hw]
        | data => cases payload <;> simp [View.complete, hs, hc, ha]
        | disp on level => cases payload <;> simp [View.complete, hs, hc, ha, hm]

/-- SETSEGMENTS shown twice leaves the receiver as shown once. -/
theorem State.shown_shown_rx {s : State} (bytes : List Byte) (pos : Byte) (h : s.rx.view.disp.wf) :
    ((s.shown bytes pos).shown bytes pos).rx = (s.shown bytes pos).rx := by
  cases hs : s.cfg.slowEnough with
  | false =>
    simp only [State.shown]
    rw [View.complete_unclaimed hs, View.complete_unclaimed hs]
  | true =>
    simp only [State.shown, dataCommand, View.complete_data _ _ hs, if_true]
    rw [View.complete_repeat (frameAcked_allAcked _) (by exact h) rfl]

/-- Settles O8: the same levels give the same actions, and the second data command and the second address frame write
what stands already. -/
theorem repeatedSetSegmentsIsIdempotent : Obligations.RepeatedSetSegmentsIsIdempotent := by
  unfold Obligations.RepeatedSetSegmentsIsIdempotent
  intro s buffer len pos hf hp hdisp hpos hlen hn low
  obtain ⟨display_wf, -⟩ := hdisp
  obtain ⟨r, first⟩ := exec_setSegments_acked hf hp hpos hlen hn fun k hk => low k (by omega)
  have sent_length : (buffer.take len.toNat).length = len.toNat := List.length_take_of_le hn
  have later (k : Nat) (hk : k < len.toNat + 2) :
      ((s.shown (buffer.take len.toNat) pos).reply r).sampleAt k = .low := by
    rw [State.sampleAt_later (s := s) (n := (buffer.take len.toNat).length + 2) rfl rfl, sent_length]
    exact low _ (by omega)
  obtain ⟨r', second⟩ := exec_setSegments_acked (s := (s.shown (buffer.take len.toNat) pos).reply r) hf rfl hpos
    hlen hn later
  exact ⟨_, _, _, first, second, rfl, rfl, State.shown_shown_rx _ pos display_wf, rfl, rfl, rfl, rfl, rfl⟩

/-! ### What SETSEGMENTS, SETBRIGHTNESS and STOP leave in the view -/

/-- A position of the display fits the three bits of an address command. -/
theorem setWidth_three_of_lt {p : Byte} (h : p.toNat < 8) :
    (p.setWidth 3).setWidth 8 = p ∧ (p.setWidth 3).toNat = p.toNat := by
  have value : (p.setWidth 3).toNat = p.toNat := by
    rw [BitVec.toNat_setWidth]
    omega
  refine ⟨BitVec.eq_of_toNat_eq ?_, value⟩
  rw [BitVec.toNat_setWidth, value]
  omega

/-- A legal display has at most six positions. -/
theorem Config.digits_le_of_legal {c : Config} (hl : c.Legal) : c.digits ≤ 6 := by
  have legal := (Config.legal_iff.mp hl).1
  by_contra h
  exact legal (.inr (.inr (.inl (not_le.mp h))))

/-- An address frame for a position of a legal display, the position in a byte. -/
theorem View.complete_addressCommand {c : Config} (v : View) (ack : Bool) (hl : c.Legal)
    (hd : c.familiesDistinct = true) (hs : c.slowEnough = true) {pos : Byte} (hp : pos.toNat < c.digits)
    (payload : List (Byte × Bool)) :
    v.complete c ((addressCommand c pos, ack) :: payload) =
      v.address c (ack && frameAcked payload) pos.toNat (payload.map (·.1)) := by
  have hc := Config.digits_le_of_legal hl
  obtain ⟨byte, value⟩ := setWidth_three_of_lt (p := pos) (by omega)
  have frame := v.complete_addr ack hl hd hs (pos.setWidth 3) payload
  rwa [byte, value] at frame

/-- The bytes of a frame are those sent. -/
theorem acked_map_fst (s : State) (k : Nat) (bytes : List Byte) : (acked (s.sentFrom k bytes)).map (·.1) = bytes := by
  induction bytes generalizing k with
  | nil => rfl
  | cons b bs ih => rw [State.sentFrom_cons, acked, List.map_cons, List.map_cons, ← acked, ih]

/-- Settles O38: the data command sets the mode, so the address frame writes its bytes to its positions. -/
theorem setSegmentsShowsTheBytes : Obligations.SetSegmentsShowsTheBytes := by
  unfold Obligations.SetSegmentsShowsTheBytes
  intro s buffer len pos hf hp hl hd hs hpos hlen hn low
  obtain ⟨r, shown⟩ := exec_setSegments_acked hf hp hpos hlen hn low
  have sent_length : (buffer.take len.toNat).length = len.toNat := List.length_take_of_le hn
  have view : (s.shown (buffer.take len.toNat) pos).rx.view = { s.rx.view with
      mode := some .autoIncrement, disp := s.rx.view.disp.writeAll pos.toNat (buffer.take len.toNat) } := by
    simp only [State.shown, dataCommand, View.complete_data _ _ hs, if_true]
    rw [allAcked, List.map_cons, ← allAcked, View.complete_addressCommand _ _ hl hd hs hpos, allAcked_map_fst,
      View.address_of_fits _ _ hpos (by rw [sent_length]; omega)]
    simp
  refine ⟨_, shown, rfl, ?_, fun p => ?_⟩
  · rw [State.reply_rx, view]
  · rw [State.reply_rx, view]
    simp only [Memory.read_writeAll, sent_length]
    split
    next h => exact List.getElem?_take_of_lt (by omega)
    next => rfl

/-- The display-control command of any level, as the family's byte. -/
theorem displayCommand_eq_setWidth (c : Config) (level : Byte) (on : Bool) : displayCommand c level on =
    c.cmdDispBase ||| (if on then c.dispOnBit else 0) ||| (level.setWidth 3).setWidth 8 := by
  rw [displayCommand_eq, setWidth_three_eight]

/-- The frame of SETBRIGHTNESS sets the on flag and the level of its operands, or leaves them unknown. -/
theorem State.sendBrightness_view {s : State} (hl : s.cfg.Legal) (hd : s.cfg.familiesDistinct = true)
    (hs : s.cfg.slowEnough = true) (level : Byte) (on : Bool) :
    (s.sendBrightness level on).2.rx.view = { s.rx.view with
      on := if ackOf (s.sampleAt 0) then some on else none,
      level := if ackOf (s.sampleAt 0) then some (level.extractLsb' 0 3) else none } := by
  rw [State.sendBrightness_eq]
  simp only [displayCommand_eq_setWidth, View.complete_disp _ _ hl hd hs,
    BitVec.setWidth_eq_extractLsb' (show 3 ≤ 8 by decide)]

/-- Settles O39: SETBRIGHTNESS's one frame is the display-control command of its operands. -/
theorem setBrightnessLightsTheReceiver : Obligations.SetBrightnessLightsTheReceiver := by
  unfold Obligations.SetBrightnessLightsTheReceiver
  intro s level on hf hp hl hd hs low
  refine ⟨_, (exec_setBrightness level on s).trans (State.check_inIdle hf hp), ?_, ?_⟩
  · rw [State.reply_rx, State.sendBrightness_eq]
  · rw [State.reply_rx, State.sendBrightness_view hl hd hs, low]
    rfl

/-- What the range check has let pass is in range (44_controller.md R174). -/
theorem inRange_of_outOfRange_eq_false {c : Config} {n len pos : Nat} (h : outOfRange c n len pos = false) :
    pos < c.digits ∧ len ≤ c.digits - pos ∧ len ≤ n := by
  have in_range := mt outOfRange_iff.mpr (Bool.eq_false_iff.mp h)
  omega

/-- What SETSEGMENTS leaves of the display outside its positions, whatever is acknowledged. -/
theorem State.sendSegments_read_outside {s : State} (hl : s.cfg.Legal) (hd : s.cfg.familiesDistinct = true)
    (hs : s.cfg.slowEnough = true) {bytes : List Byte} {pos : Byte} (hpos : pos.toNat < s.cfg.digits)
    (hn : pos.toNat + bytes.length ≤ s.cfg.digits) {p : Nat} (ho : p < pos.toNat ∨ pos.toNat + bytes.length ≤ p) :
    (s.sendSegments bytes pos).2.rx.view.disp.read p = s.rx.view.disp.read p := by
  rw [State.sendSegments_eq]
  simp only [State.sentFrom_cons, State.sentFrom_nil, acked, List.map_cons, List.map_nil, dataCommand,
    View.complete_data _ _ hs]
  rw [← acked, View.complete_addressCommand _ _ hl hd hs hpos, acked_map_fst,
    View.address_read_outside _ _ hpos hn ho]

/-- Settles O40: of the frames that each of the three can complete only an address frame touches the display, at its own
positions. -/
theorem framesTouchOnlyTheirPositions : Obligations.FramesTouchOnlyTheirPositions := by
  unfold Obligations.FramesTouchOnlyTheirPositions
  intro s t hl hd hs
  refine ⟨fun buffer len pos h p ho => ?_, fun level on h => ?_, fun h => ?_⟩
  · obtain ⟨-, ⟨-, rfl⟩ | ⟨-, rfl⟩ | ⟨-, -, rfl⟩ | ⟨-, hr, rfl⟩⟩ := State.setSegments_next h
    · rfl
    · rfl
    · rfl
    · obtain ⟨hpos, hlen, hn⟩ := inRange_of_outOfRange_eq_false hr
      have sent_length : (buffer.take len.toNat).length = len.toNat := List.length_take_of_le hn
      rw [State.reply_rx]
      exact State.sendSegments_read_outside hl hd hs hpos (by omega) (by omega)
  · obtain ⟨-, ⟨-, rfl⟩ | ⟨-, -, -, rfl⟩ | ⟨-, -, -, h⟩⟩ := State.check_next (exec_setBrightness level on s ▸ h)
    · rfl
    · rfl
    · cases h
      rw [State.reply_rx, State.sendBrightness_view hl hd hs]
  · obtain ⟨-, ⟨-, rfl⟩ | ⟨-, -, -, rfl⟩ | ⟨-, -, -, h⟩⟩ := State.check_next (exec_stop s ▸ h)
    · exact ⟨fun _ _ _ _ _ _ _ _ => rfl, fun _ _ _ _ => rfl⟩
    · exact ⟨fun _ _ _ _ _ _ _ _ => rfl, fun _ _ _ _ => rfl⟩
    · cases h
      refine ⟨fun pos ack payload frame hp hn p ho => ?_, fun b ack frame hb => ?_⟩
      · rw [State.reply_rx, State.stopCondition_eq, Receiver.closeFrame, frame]
        simp only [View.complete_addr _ _ hl hd hs]
        exact View.address_read_outside _ _ hp (by rwa [List.length_map]) (by rwa [List.length_map])
      · rw [State.reply_rx, State.stopCondition_eq, Receiver.closeFrame, frame]
        obtain rfl | ⟨on, level, rfl⟩ := hb
        · simp only [View.complete_data _ _ hs]
        · simp only [View.complete_disp _ _ hl hd hs]

/-- Settles O41: of what an instruction can have done only STOP and the transmitting operations complete a frame. -/
theorem receiverViewChangesOnlyAtFrameEnds : Obligations.ReceiverViewChangesOnlyAtFrameEnds := by
  unfold Obligations.ReceiverViewChangesOnlyAtFrameEnds
  intro i s t h hi hstop
  obtain ⟨-, hd⟩ := exec_next h
  cases hd with
  | raised | answered | rejected | delayed | begun | closed => rfl
  | started => rw [State.reply_rx, State.startCondition_eq]; rfl
  | stopped hi' => exact absurd hi' hstop
  | sent => rw [State.reply_rx, State.sendByte_eq]; rfl
  | sentSegments _ _ _ hi' => rw [transmits_of_segmentsOf hi'] at hi; cases hi
  | sentBrightness level on hi' => subst hi'; cases hi

end Sys2Proof.Machine
end

section
/-! What each instruction writes and what it leaves: the brightness, the phase, the samples and the last
acknowledgement, the fault record and the reply. -/

namespace Sys2Proof.Machine

open Sys2Proof.Claims

/-! ### Who writes a field -/

/-- Settles O4: of what an instruction can have done only SETBRIGHTNESS's frame comes with a new brightness. -/
theorem brightnessWrittenOnlyBySetBrightness : Obligations.BrightnessWrittenOnlyBySetBrightness := by
  unfold Obligations.BrightnessWrittenOnlyBySetBrightness
  intro i s t h hi
  obtain ⟨-, hd⟩ := exec_next h
  cases hd with
  | raised | answered | rejected | delayed | begun | closed => rfl
  | started => rw [State.reply_bright, State.startCondition_eq]
  | stopped => rw [State.reply_bright, State.stopCondition_eq]
  | sent => rw [State.reply_bright, State.sendByte_eq]
  | sentSegments => rw [State.reply_bright, State.sendSegments_eq]
  | sentBrightness level on hb => subst hb; cases hi

/-- Where the bus is not open only DISPLAYBEGIN has a transition that opens it. -/
theorem notOpen_of_transition {i : Instr} {s t : State} (hs : NotOpen s) (hi : i ≠ .displayBegin)
    (ht : Transition s.phase i t.phase) : NotOpen t := by
  cases hn : needsOpenLines i with
  | true => exact absurd ht (no_transition_of_notOpen hn hs t.phase)
  | false =>
    cases i with
    | displayBegin => exact absurd rfl hi
    | displayClose => exact .inr ht.2
    | bitDelay | encData | encAddr | encDisp | encodeCharacter | encodeDecimal | encodeDecimalWithDot
    | encodeString =>
      have kept : t.phase = s.phase := ht
      rwa [NotOpen, kept]
    | wireCmdData | wireCmdAddr | wireCmdDisp | wireSegment =>
      obtain ⟨inside, -⟩ := ht
      exact absurd hs (not_notOpen_of_inTransaction inside)
    | _ => cases hn

/-- Settles O32: an instruction raises, which leaves the phase, or makes a transition of the table. -/
theorem onlyDisplayBeginOpens : Obligations.OnlyDisplayBeginOpens := by
  unfold Obligations.OnlyDisplayBeginOpens
  intro i s t h hs hi
  obtain ⟨code, rfl⟩ | ⟨-, ht⟩ := exec_raised_or_transition h
  · exact hs
  · exact notOpen_of_transition hs hi ht

/-- Settles O47: a fault that an instruction records is one it raised under its id. -/
theorem faultRecordNamesTheOperation : Obligations.FaultRecordNamesTheOperation := by
  unfold Obligations.FaultRecordNamesTheOperation
  intro i s t r h hr
  obtain ⟨raised, -⟩ := exec_recorded h hr
  rw [raised, State.raise_fault, Option.some.injEq] at hr
  exact (congrArg FaultRecord.op hr).symm

/-! ### Samples -/

/-- From `s` to `t` samples were drawn in order, and the last of them is the last acknowledgement. -/
def State.Drew (s t : State) : Prop :=
  ∃ n appended, t.trace = s.trace ++ appended ∧ appended.filterMap sampleOf = (List.range n).map s.sampleAt ∧
    t.samples = s.samples.drop n ∧ t.draws = s.draws + n ∧
    t.lastAck = (((List.range n).map s.sampleAt).getLast?.map ackOf).or s.lastAck

/-- Actions without a sample draw none. -/
theorem State.Drew.append {s t u : State} (h : s.Drew t) {more : List Action} (trace : u.trace = t.trace ++ more)
    (none : more.filterMap sampleOf = []) (samples : u.samples = t.samples) (draws : u.draws = t.draws)
    (lastAck : u.lastAck = t.lastAck) : s.Drew u := by
  obtain ⟨n, appended, h1, h2, h3, h4, h5⟩ := h
  refine ⟨n, appended ++ more, ?_, ?_, samples.trans h3, draws.trans h4, lastAck.trans h5⟩
  · rw [trace, h1, List.append_assoc]
  · rw [List.filterMap_append, none, List.append_nil, h2]

/-- The actions of a byte have one sample. -/
theorem byteActions_sampleOf (us : Nat) (b : Byte) (a : Level) : (byteActions us b a).filterMap sampleOf = [a] := rfl

/-- A byte draws the next sample. -/
theorem State.Drew.sendByte {s t : State} (h : s.Drew t) (b : Byte) : s.Drew (t.sendByte b) := by
  obtain ⟨n, appended, trace, sampled, samples, draws, lastAck⟩ := h
  have next : t.nextSample = s.sampleAt n := by
    rw [← State.sampleAt_zero, State.sampleAt_later samples draws, Nat.add_zero]
  rw [State.sendByte_eq, next]
  refine ⟨n + 1, appended ++ byteActions t.cfg.bitDelayUs b (s.sampleAt n), ?_, ?_, ?_, ?_, ?_⟩
  · simp only [trace, List.append_assoc]
  · rw [List.filterMap_append, sampled, byteActions_sampleOf, List.range_succ, List.map_append]
    rfl
  · simp [samples, List.tail_drop]
  · simp only [draws, Nat.add_assoc]
  · simp [List.range_succ]

/-- Every sequence draws its samples in order. -/
theorem drew_kept (s : State) : Kept s.Drew where
  told _ _ _ _ h := h.append (List.append_nil _).symm rfl rfl rfl rfl
  delay _ h := h.append rfl rfl rfl rfl rfl
  start t _ h := by
    rw [State.startCondition_eq]
    exact h.append rfl rfl rfl rfl rfl
  byte _ b _ h := h.sendByte b
  stop t _ h := by
    rw [State.stopCondition_eq]
    exact h.append rfl rfl rfl rfl rfl
  begun t _ h := h.append (more := [.clkSet .high, .dioSet .high]) (by simp) rfl rfl rfl rfl
  closed t _ h := h.append (more := [.dioRelease, .clkRelease]) (by simp) rfl rfl rfl rfl

/-- So does every instruction. -/
theorem exec_drew {i : Instr} {s t : State} (h : exec i s = .next t) : s.Drew t :=
  (drew_kept s).exec h ⟨0, [], by simp, by simp, by simp, by simp, by simp⟩

/-- Settles O6: every sequence that instructions are made of draws its samples in order. -/
theorem samplesAreDrawnInOrder : Obligations.SamplesAreDrawnInOrder := by
  unfold Obligations.SamplesAreDrawnInOrder
  intro i s t h
  obtain ⟨n, appended, trace, sampled, samples, draws, -⟩ := exec_drew h
  exact ⟨n, appended, trace, sampled, samples, draws⟩

/-- An instruction that sends no byte leaves the last acknowledgement. -/
theorem lastAck_of_sends_none {i : Instr} {s t : State} (h : exec i s = .next t) (hi : sendsBytes i = false) :
    t.lastAck = s.lastAck := by
  obtain ⟨-, hd⟩ := exec_next h
  cases hd with
  | raised | answered | rejected | delayed | begun | closed => rfl
  | started => rw [State.reply_lastAck, State.startCondition_eq]
  | stopped => rw [State.reply_lastAck, State.stopCondition_eq]
  | sent b hone => simp [sendsOne, hi] at hone
  | sentSegments _ _ _ hn => simp [sendsBytes, transmits_of_segmentsOf hn] at hi
  | sentBrightness level on hb => subst hb; cases hi

/-- Settles O5: the samples an instruction draws are those of the actions it appends. -/
theorem lastAckIsTheLastSample : Obligations.LastAckIsTheLastSample := by
  unfold Obligations.LastAckIsTheLastSample
  intro i s t h
  obtain ⟨n, actions, trace, sampled, -, -, lastAck⟩ := exec_drew h
  have same {appended : List Action} (ht : t.trace = s.trace ++ appended) :
      t.lastAck = ((appended.filterMap sampleOf).getLast?.map ackOf).or s.lastAck := by
    rw [List.append_cancel_left (ht.symm.trans trace), sampled, lastAck]
  refine ⟨lastAck_of_sends_none h, fun appended a ht ha => ?_, fun appended ht hnone => ?_⟩
  · rw [same ht, ha, ← ackOf_eq_decide]
    rfl
  · rw [same ht, hnone]
    rfl

/-! ### Replies -/

/-- No sequence takes a request. -/
theorem requests_kept (s : State) : Kept fun t => t.requests = s.requests where
  told _ _ _ _ h := h
  delay _ h := h
  start t _ h := by rwa [State.startCondition_eq]
  byte t b _ h := by rwa [State.sendByte_eq]
  stop t _ h := by rwa [State.stopCondition_eq]
  begun _ _ h := h
  closed _ _ h := h

/-- The one reply that was added is a fault outcome exactly of the fault recorded. -/
def State.AnsweredOnce (s t : State) : Prop :=
  ∃ r, t.replies = s.replies ++ [r] ∧ ∀ code, (r = .fault code ↔ ∃ f, t.fault = some f ∧ f.code = code)

/-- A reply that is no fault outcome, of a sequence that records none. -/
theorem State.answeredOnce_reply {s t : State} {r : Reply} (hf : t.fault = none) (hr : t.replies = s.replies)
    (hn : ∀ code, r ≠ .fault code) : s.AnsweredOnce (t.reply r) :=
  ⟨r, by rw [State.reply_replies, hr], fun code => by simp [hf, hn code]⟩

/-- Whatever an instruction has done, it answered once: what it told the host last follows all else it did. -/
theorem Did.answeredOnce {i : Instr} {s t : State} (hf : s.fault = none) (h : Did i s t) : s.AnsweredOnce t := by
  cases h with
  | raised code => exact ⟨.fault code, rfl, fun code' => by simp⟩
  | answered | rejected | delayed | begun | closed => exact State.answeredOnce_reply hf rfl nofun
  | started => exact State.answeredOnce_reply (by rwa [State.startCondition_eq]) (by rw [State.startCondition_eq]) nofun
  | stopped => exact State.answeredOnce_reply (by rwa [State.stopCondition_eq]) (by rw [State.stopCondition_eq]) nofun
  | sent => exact State.answeredOnce_reply (by rwa [State.sendByte_eq]) (by rw [State.sendByte_eq]) nofun
  | sentSegments =>
    exact State.answeredOnce_reply (by rwa [State.sendSegments_eq]) (by rw [State.sendSegments_eq]) nofun
  | sentBrightness =>
    exact State.answeredOnce_reply (by rwa [State.sendBrightness_eq]) (by rw [State.sendBrightness_eq]) nofun

/-- Settles O50: no sequence takes a request, and an instruction ends with its one reply. -/
theorem everyOperationAnswersOnce : Obligations.EveryOperationAnswersOnce := by
  unfold Obligations.EveryOperationAnswersOnce
  intro i s t h
  obtain ⟨hf, hd⟩ := exec_next h
  exact ⟨(requests_kept s).exec h rfl, hd.answeredOnce hf⟩

end Sys2Proof.Machine
end

section
/-! How many actions and delays an instruction appends, and how much time passes at least (40_protocol.md R119,
70_reset_and_hazards.md R242 to R244). -/

namespace Sys2Proof.Machine

open Sys2Proof.Claims

/-! ### The counts of the action lists -/

/-- The counts of a list of actions: its length, its delays, and the time that passes at least, each delay being
of `us`. -/
def Costs (us : Nat) (actions : List Action) (length delays : Nat) : Prop :=
  actions.length = length ∧ delayCount actions = delays ∧ leastMicroseconds actions = delays * us

/-- The time of a trace that goes on is that of its two parts. -/
theorem leastMicroseconds_append (before more : List Action) :
    leastMicroseconds (before ++ more) = leastMicroseconds before + leastMicroseconds more := by
  simp [leastMicroseconds]

/-- The counts of two lists of actions add up. -/
theorem Costs.append {us n n' d d' : Nat} {actions actions' : List Action} (h : Costs us actions n d)
    (h' : Costs us actions' n' d') : Costs us (actions ++ actions') (n + n') (d + d') := by
  obtain ⟨length, delays, time⟩ := h
  obtain ⟨length', delays', time'⟩ := h'
  exact ⟨by rw [List.length_append, length, length'], by rw [delayCount_append, delays, delays'],
    by rw [leastMicroseconds_append, time, time', Nat.add_mul]⟩

section
variable (us : Nat)

/-- START's counts. -/
theorem costs_startActions : Costs us (startActions us) 2 1 :=
  ⟨rfl, rfl, by simp [leastMicroseconds, startActions]⟩

/-- STOP's counts. -/
theorem costs_stopActions : Costs us (stopActions us) 6 3 :=
  ⟨rfl, rfl, by simp [leastMicroseconds, stopActions]; omega⟩

/-- WRITEBYTE's counts: six actions for each bit and five for the acknowledgement pulse. -/
theorem costs_byteActions (b : Byte) (a : Level) : Costs us (byteActions us b a) 53 17 := by
  have bit (v : Bool) : leastMicroseconds (bitActions us v) = 2 * us := by
    simp [leastMicroseconds, bitActions, two_mul]
  have pulse : leastMicroseconds [.dioRelease, .clkSet .high, .dioSample a, .delay us, .clkSet .low] = us := by
    simp [leastMicroseconds]
  refine ⟨byteActions_length us b a, byteActions_delayCount us b a, ?_⟩
  simp only [byteActions, leastMicroseconds_append, bit, pulse]
  omega

/-- A transaction's counts (R119). -/
theorem costs_frameActions (sent : List (Byte × Level)) :
    Costs us (frameActions us sent) (8 + 53 * sent.length) (4 + 17 * sent.length) := by
  have bytes : Costs us (sent.flatMap fun x => byteActions us x.1 x.2) (53 * sent.length) (17 * sent.length) := by
    induction sent with
    | nil => exact ⟨rfl, rfl, by simp [leastMicroseconds]⟩
    | cons x sent ih =>
      have sum := (costs_byteActions us x.1 x.2).append ih
      rw [List.flatMap_cons, List.length_cons]
      convert sum using 1 <;> ring
  have frame := ((costs_startActions us).append bytes).append (costs_stopActions us)
  unfold frameActions
  convert frame using 1 <;> ring

end

/-! ### The counts of an instruction -/

/-- An instruction that sends one byte has WRITEBYTE's counts. -/
theorem actionCount_of_sendsOne {c : Config} {i : Instr} (h : sendsOne i = true) :
    actionCount c i = 53 ∧ delaysOf c i = 17 := by
  cases i with
  | writeByte | wireCmdData | wireCmdAddr | wireCmdDisp | wireSegment => exact ⟨rfl, rfl⟩
  | _ => cases h

/-- SETSEGMENTS and the operations over it have the counts of two frames. -/
theorem actionCount_of_segmentsOf {c : Config} {i : Instr} {n : Nat} (h : segmentsOf c i = some n) :
    actionCount c i = 122 + 53 * n ∧ delaysOf c i = 42 + 17 * n := by
  simp [actionCount, delaysOf, h]

/-- What an instruction can have done to the trace: nothing, where it raised or was rejected, or it appended actions of
the counts of R119, with at most DIGITS segments. -/
theorem Did.trace_eq_or_costs {i : Instr} {s t : State} (h : Did i s t) :
    (t.trace = s.trace ∧ (t.fault ≠ none ∨ lastReply t = some .errRange)) ∨
      ∃ actions, t.trace = s.trace ++ actions ∧
        Costs s.cfg.bitDelayUs actions (actionCount s.cfg i) (delaysOf s.cfg i) ∧
        ∀ n, segmentsOf s.cfg i = some n → n ≤ s.cfg.digits := by
  cases h with
  | raised => exact .inl ⟨rfl, .inl (by simp)⟩
  | rejected => exact .inl ⟨rfl, .inr (lastReply_reply ..)⟩
  | answered v hs hn hd =>
    refine .inr ⟨[], (List.append_nil _).symm, ?_, fun n hseg => ?_⟩
    · rw [hn, hd]
      exact ⟨rfl, rfl, by simp [leastMicroseconds]⟩
    · simp [sendsBytes, transmits_of_segmentsOf hseg] at hs
  | delayed hi =>
    subst hi
    exact .inr ⟨[.delay s.cfg.bitDelayUs], rfl, ⟨rfl, rfl, by simp [leastMicroseconds, delaysOf, segmentsOf]⟩, nofun⟩
  | started hi =>
    subst hi
    exact .inr ⟨_, by rw [State.reply_trace, State.startCondition_eq], costs_startActions _, nofun⟩
  | stopped hi =>
    subst hi
    exact .inr ⟨_, by rw [State.reply_trace, State.stopCondition_eq], costs_stopActions _, nofun⟩
  | begun hi =>
    subst hi
    exact .inr ⟨[.clkSet .high, .dioSet .high], by simp,
      ⟨rfl, rfl, by simp [leastMicroseconds, delaysOf, segmentsOf, sendsBytes, transmits]⟩, nofun⟩
  | closed hi =>
    subst hi
    exact .inr ⟨[.dioRelease, .clkRelease], by simp,
      ⟨rfl, rfl, by simp [leastMicroseconds, delaysOf, segmentsOf, sendsBytes, transmits]⟩, nofun⟩
  | sent b hi =>
    obtain ⟨count, delays⟩ := actionCount_of_sendsOne (c := s.cfg) hi
    refine .inr ⟨_, by rw [State.reply_trace, State.sendByte_eq], ?_, fun n hseg => ?_⟩
    · rw [count, delays]
      exact costs_byteActions ..
    · simp [sendsOne, transmits_of_segmentsOf hseg] at hi
  | sentSegments buffer len pos hi hp hr =>
    obtain ⟨count, delays⟩ := actionCount_of_segmentsOf hi
    obtain ⟨hpos, hlen, hn⟩ := inRange_of_outOfRange_eq_false hr
    have frames := (costs_frameActions s.cfg.bitDelayUs (s.sentFrom 0 [dataCommand s.cfg])).append
      (costs_frameActions s.cfg.bitDelayUs (s.sentFrom 1 (addressCommand s.cfg pos :: buffer.take len)))
    simp only [State.sentFrom_length, List.length_cons, List.length_nil, List.length_take_of_le hn] at frames
    refine .inr ⟨_, by rw [State.reply_trace, State.sendSegments_eq, List.append_assoc], ?_, fun n hseg => ?_⟩
    · rw [count, delays]
      convert frames using 1 <;> ring
    · cases hi.symm.trans hseg
      omega
  | sentBrightness level on hi =>
    subst hi
    exact .inr ⟨_, by rw [State.reply_trace, State.sendBrightness_eq], costs_frameActions .., nofun⟩

/-- Settles O53: an instruction that completes with status OK has appended actions of its counts. -/
theorem actionAndDelayCounts : Obligations.ActionAndDelayCounts := by
  unfold Obligations.ActionAndDelayCounts
  intro i s t h hf hr
  obtain ⟨-, faulted | rejected⟩ | ⟨actions, trace, ⟨length, delays, time⟩, -⟩ := (exec_next h).2.trace_eq_or_costs
  · exact absurd hf faulted
  · exact absurd rejected hr
  · rw [trace, List.length_append, delayCount_append, leastMicroseconds_append, length, delays, time]
    exact ⟨rfl, rfl, rfl⟩

/-- With at most six segments the longest instruction appends 440 actions (R244). -/
theorem actionCount_le {c : Config} {i : Instr} (h : ∀ n, segmentsOf c i = some n → n ≤ 6) : actionCount c i ≤ 440 := by
  cases hseg : segmentsOf c i with
  | some n =>
    have hn := h n hseg
    rw [(actionCount_of_segmentsOf hseg).1]
    omega
  | none =>
    cases i with
    | setSegments | displayClear | displayDecimal | displayDecimalWDot | displayString => cases hseg
    | _ => simp [actionCount, segmentsOf, sendsBytes, transmits]

/-- Settles O54: what an instruction appends has the counts of one that completes, or is nothing. -/
theorem everyOperationIsBounded : Obligations.EveryOperationIsBounded := by
  unfold Obligations.EveryOperationIsBounded
  intro i s t hd h
  obtain ⟨trace, -⟩ | ⟨actions, trace, ⟨length, -, -⟩, fits⟩ := (exec_next h).2.trace_eq_or_costs
  · rw [trace]
    omega
  · have bounded := actionCount_le fun n hn => (fits n hn).trans hd
    rw [trace, List.length_append, length]
    omega

end Sys2Proof.Machine
end

section
/-! The composites as their expansions (30_encoding.md R84). -/

namespace Sys2Proof.Machine

open Sys2Proof.Claims

/-- The state with another list of what the host was told. -/
def State.told (replies : List Reply) (s : State) : State := { s with replies := replies }

/-- Sequences of instructions run one after the other. -/
theorem runAll_append {is js : List Instr} {s t : State} (h : runAll is s = some t) :
    runAll (is ++ js) s = runAll js t := by
  induction is generalizing s with
  | nil => cases h; rfl
  | cons i is ih =>
    rw [runAll] at h
    rw [List.cons_append, runAll]
    cases hi : exec i s with
    | next u =>
      rw [hi] at h
      exact ih h
    | fault | refused => rw [hi] at h; cases h

/-- The first instruction of a sequence is executed first. -/
theorem runAll_cons {i : Instr} {is : List Instr} {s t : State} (h : exec i s = .next t) :
    runAll (i :: is) s = runAll is t := by
  rw [runAll, h]

/-! ### What the host was told is not read -/

/-- START does not read it. -/
theorem State.startCondition_told (replies : List Reply) (s : State) :
    (s.told replies).startCondition = s.startCondition.told replies := by
  rw [State.startCondition_eq, State.startCondition_eq]
  rfl

/-- Nor does STOP. -/
theorem State.stopCondition_told (replies : List Reply) (s : State) :
    (s.told replies).stopCondition = s.stopCondition.told replies := by
  rw [State.stopCondition_eq, State.stopCondition_eq]
  rfl

/-- Nor does WRITEBYTE. -/
theorem State.sendByte_told (b : Byte) (replies : List Reply) (s : State) :
    (s.told replies).sendByte b = (s.sendByte b).told replies := by
  rw [State.sendByte_eq, State.sendByte_eq]
  rfl

/-- Nor do bytes sent in a row. -/
theorem State.sendBytes_told (bytes : List Byte) (replies : List Reply) (s : State) :
    ((s.told replies).sendBytes bytes).2 = (s.sendBytes bytes).2.told replies := by
  induction bytes generalizing s with
  | nil => rfl
  | cons b bs ih =>
    rw [State.sendBytes_cons_snd, State.sendByte_told, ih]
    rfl

/-- A transaction is START, its bytes and STOP. -/
theorem State.transaction_snd (bytes : List Byte) (s : State) :
    (s.transaction bytes).2 = (s.startCondition.sendBytes bytes).2.stopCondition := rfl

/-- So it does not read what the host was told either. -/
theorem State.transaction_told (bytes : List Byte) (replies : List Reply) (s : State) :
    ((s.told replies).transaction bytes).2 = (s.transaction bytes).2.told replies := by
  rw [State.transaction_snd, State.startCondition_told, State.sendBytes_told, State.stopCondition_told]
  rfl

/-! ### Sequences of primitives -/

/-- Bytes sent in a row record no fault. -/
theorem State.sendBytes_fault (bytes : List Byte) (s : State) : (s.sendBytes bytes).2.fault = s.fault := by
  obtain ⟨-, clk, dio, phase, sent⟩ := State.sendBytes_spec bytes s
  rw [sent]

/-- WRITEBYTE of each byte in an open frame sends the bytes. -/
theorem runAll_writeBytes (bytes : List Byte) {s : State} (hf : s.fault = none) (hp : InTransaction s) :
    ∃ replies, runAll (bytes.map .writeByte) s = some ((s.sendBytes bytes).2.told replies) := by
  induction bytes generalizing s with
  | nil => exact ⟨s.replies, rfl⟩
  | cons b bs ih =>
    obtain ⟨told, first⟩ : ∃ replies, exec (.writeByte b) s = .next ((s.sendByte b).told replies) :=
      ⟨_, (exec_writeByte b s).trans (State.check_inFrame hf hp)⟩
    obtain ⟨replies, rest⟩ := ih (s := (s.sendByte b).told told)
      ((State.sendBytes_fault [b] s).trans hf) (.inr (State.sendByte_phase b s))
    refine ⟨replies, ?_⟩
    rw [List.map_cons, runAll_cons first, rest, State.sendBytes_cons_snd, State.sendBytes_told]
    rfl

/-- START, WRITEBYTE of each byte and STOP from IDLE are a transaction. -/
theorem runAll_transaction (bytes : List Byte) {s : State} (hf : s.fault = none) (hp : s.phase = .idle) :
    ∃ replies, runAll (.start :: (bytes.map .writeByte ++ [.stop])) s =
      some ((s.transaction bytes).2.told replies) := by
  obtain ⟨told, start⟩ : ∃ replies, exec .start s = .next (s.startCondition.told replies) :=
    ⟨_, (exec_start s).trans (State.check_inIdle hf hp)⟩
  have started : InTransaction s.startCondition := .inl (State.startCondition_phase s)
  have fault : s.startCondition.fault = none := by rwa [State.startCondition_eq]
  obtain ⟨replies, sent⟩ := runAll_writeBytes bytes (s := s.startCondition.told told) fault started
  rw [State.sendBytes_told] at sent
  have stop := (exec_stop ((s.startCondition.sendBytes bytes).2.told replies)).trans
    (State.check_inFrame ((State.sendBytes_fault ..).trans fault) (State.sendBytes_inTransaction started))
  rw [State.stopCondition_told] at stop
  refine ⟨replies ++ [.ok .none], ?_⟩
  rw [runAll_cons start, runAll_append sent]
  exact runAll_cons stop

/-! ### The composites -/

/-- DISPLAYCLEAR is SETSEGMENTS of DIGITS blanks. -/
theorem exec_displayClear_eq {s : State} (hf : s.fault = none) (hp : s.phase = .idle) (hd : s.cfg.digits ≤ 255) :
    exec .displayClear s = exec (.setSegments (List.replicate s.cfg.digits 0) (BitVec.ofNat 8 s.cfg.digits) 0) s := by
  have length : (BitVec.ofNat 8 s.cfg.digits).toNat = s.cfg.digits := by
    rw [BitVec.toNat_ofNat]
    omega
  rw [exec_displayClear, exec_setSegments, length]
  exact State.setSegments_idle_eq _ _ _ _ _ hf hp

/-- Settles O15: the expansions of SETSEGMENTS and SETBRIGHTNESS are the transactions that these run, with more replies;
DISPLAYCLEAR's number of blanks fits the length byte of SETSEGMENTS. -/
theorem compositesEqualTheirExpansions : Obligations.CompositesEqualTheirExpansions := by
  unfold Obligations.CompositesEqualTheirExpansions
  refine ⟨fun s buffer len pos hf hp hpos hlen hn => ?_, fun s level on hf hp => ?_,
    fun _ => exec_displayClear_eq⟩
  · obtain ⟨replies, first⟩ := runAll_transaction [dataCommand s.cfg] hf hp
    have idle : (s.transaction [dataCommand s.cfg]).2.phase = .idle := by rw [State.transaction_eq]
    have fault : (s.transaction [dataCommand s.cfg]).2.fault = none := by rwa [State.transaction_eq]
    obtain ⟨replies', second⟩ := runAll_transaction (addressCommand s.cfg pos :: buffer.take len.toNat)
      (s := (s.transaction [dataCommand s.cfg]).2.told replies) fault idle
    refine ⟨_, _, State.setSegments_pass hf hp (outOfRange_eq_false hpos hlen hn),
      (runAll_append first).trans second, ?_⟩
    rw [State.sendSegments_snd, State.transaction_told]
    rfl
  · obtain ⟨replies, sent⟩ := runAll_transaction [displayCommand s.cfg level on] hf hp
    rw [displayCommand_eq] at sent
    refine ⟨_, _, (exec_setBrightness level on s).trans (State.check_inIdle hf hp), sent, ?_⟩
    rw [State.sendBrightness_eq, State.transaction_eq]
    simp [silent, State.told, State.sentFrom_cons, acked, lastAckOf, displayCommand_eq]

end Sys2Proof.Machine
end

section
/-! Construction, opening and closing the bus, a failed acknowledgement, and the formatters' dependence on GLYPH. -/

namespace Sys2Proof.Machine

open Sys2Proof.Claims

/-! ### Construction -/

/-- Settles O1: construction gives each field its reset value, and the default configuration is a legal one. -/
theorem resetState : Obligations.ResetState := by
  unfold Obligations.ResetState
  exact ⟨fun c => ⟨rfl, rfl, rfl, rfl, rfl, rfl, rfl, rfl⟩, defaultConfig, by decide, rfl, rfl, rfl⟩

/-- Settles O52: a configuration that is not illegal and holds the fixed glyphs is legal. -/
theorem legalConfigurationsGiveResetState : Obligations.LegalConfigurationsGiveResetState := by
  unfold Obligations.LegalConfigurationsGiveResetState
  exact fun c legal glyphs => if_pos (Config.legal_iff.mpr ⟨legal, glyphs⟩)

/-! ### Opening and closing the bus -/

/-- Outside a transaction the check of DISPLAYBEGIN and DISPLAYCLOSE passes. -/
theorem State.checkOutsideFrame_pass {s : State} {op : Byte} {go : State → Result} (hf : s.fault = none)
    (hp : ¬InTransaction s) : s.checkOutsideFrame op go = go s :=
  (State.running_of_none hf).trans (if_neg hp)

/-- Inside one it raises FRAMING. -/
theorem raises_framing_of_checkOutsideFrame {i : Instr} {s : State} {op : Byte} {go : State → Result}
    (he : exec i s = s.checkOutsideFrame op go) (hf : s.fault = none) (hp : InTransaction s) :
    Raises i s .framing :=
  raises_of_exec_eq_raise (he.trans ((State.running_of_none hf).trans (if_pos hp)))

/-- Settles O30: outside a transaction the check passes and both lines are driven, inside one it raises FRAMING. -/
theorem displayBeginOpensTheBus : Obligations.DisplayBeginOpensTheBus := by
  unfold Obligations.DisplayBeginOpensTheBus
  refine ⟨rfl, exec_stopsOnFault _, fun s hf => ⟨fun hp => ?_, ?_⟩⟩
  · refine ⟨_, (exec_displayBegin s).trans (State.checkOutsideFrame_pass hf hp), ?_⟩
    simp [State.reply, State.setClk, State.setDio, State.act]
  · exact raises_framing_of_checkOutsideFrame (exec_displayBegin s) hf

/-- Settles O31: outside a transaction the check passes and both lines are released, inside one it raises FRAMING. -/
theorem displayCloseReleasesTheBus : Obligations.DisplayCloseReleasesTheBus := by
  unfold Obligations.DisplayCloseReleasesTheBus
  refine ⟨rfl, exec_stopsOnFault _, fun s hf => ⟨fun hp => ?_, ?_⟩⟩
  · refine ⟨_, (exec_displayClose s).trans (State.checkOutsideFrame_pass hf hp), ?_⟩
    simp [State.reply, State.releaseClk, State.releaseDio, State.act]
  · exact raises_framing_of_checkOutsideFrame (exec_displayClose s) hf

/-! ### A failed acknowledgement -/

/-- Inside a frame WRITEBYTE sends the byte and answers what it sampled. -/
theorem exec_writeByte_inFrame (b : Byte) {s : State} (hf : s.fault = none) (hp : InTransaction s) :
    exec (.writeByte b) s = .next ((s.sendByte b).reply (.ok (.ack (ackOf s.nextSample)))) :=
  (exec_writeByte b s).trans (State.check_inFrame hf hp)

/-- Settles O20: the sampled level enters the end of WRITEBYTE only as the action, as the acknowledgement kept and
answered, and as the one in the open frame. -/
theorem failedAckChangesOnlyTheResult : Obligations.FailedAckChangesOnlyTheResult := by
  unfold Obligations.FailedAckChangesOnlyTheResult
  intro s b rest hf hp
  refine ⟨_, _, exec_writeByte_inFrame b (s := { s with samples := .low :: rest }) hf hp,
    exec_writeByte_inFrame b (s := { s with samples := .high :: rest }) hf hp, ?_⟩
  rw [lastReply_reply, lastReply_reply, State.sendByte_eq, State.sendByte_eq]
  exact ⟨rfl, rfl, rfl, rfl, rfl, rfl, rfl, rfl⟩

/-! ### What the formatters read -/

/-- The glyph of a character depends on nothing of the configuration but GLYPH. -/
theorem glyphOf_congr {c d : Config} (h : c.glyph = d.glyph) : glyphOf c = glyphOf d := by
  funext ch
  by_cases hr : 0x20 ≤ ch.toNat ∧ ch.toNat ≤ 0x7F
  · simp only [glyphOf_of_inRange hr, h]
  · rw [glyphOf_of_not_inRange hr, glyphOf_of_not_inRange hr]

/-- So ENCODEDECIMAL's result depends on nothing else of it. -/
theorem formatDecimal_congr {c d : Config} (h : c.glyph = d.glyph) : formatDecimal c = formatDecimal d := by
  unfold formatDecimal
  rw [glyphOf_congr h]

/-- Nor does ENCODEDECIMALWITHDOT's. -/
theorem formatDecimalWithDot_congr {c d : Config} (h : c.glyph = d.glyph) :
    formatDecimalWithDot c = formatDecimalWithDot d := by
  unfold formatDecimalWithDot
  rw [formatDecimal_congr h]

/-- Nor does ENCODESTRING's. -/
theorem formatString_congr {c d : Config} (h : c.glyph = d.glyph) : formatString c = formatString d := by
  unfold formatString
  rw [glyphOf_congr h]

/-- The text OPEN is formatted as the glyphs of its letters. -/
theorem formatString_open (c : Config) :
    formatString c [0x4F, 0x50, 0x45, 0x4E] 0 4 = [c.glyph[47], c.glyph[48], c.glyph[37], c.glyph[46]] := by
  simp [formatString, applyDots, textUpToZero, maskSelects, glyphOf_of_inRange, List.range, List.range.loop]

/-- Settles O29: each formatter's answer is computed from the glyphs of characters, which only GLYPH gives. -/
theorem formatterDependsOnlyOnGlyph : Obligations.FormatterDependsOnlyOnGlyph := by
  unfold Obligations.FormatterDependsOnlyOnGlyph
  refine ⟨fun s t hs ht glyphs => ⟨fun text mask len pos => ?_, fun v lz len => ?_, fun v mask lz len => ?_⟩,
    fun s hf => formatString_open s.cfg ▸ (exec_encodeString_answersSlots _ 0 4 0).2 s hf⟩
  · exact ⟨_, (exec_encodeString_answersSlots text mask len pos).2 s hs,
      formatString_congr glyphs ▸ (exec_encodeString_answersSlots text mask len pos).2 t ht⟩
  · exact ⟨_, (exec_encodeDecimal_answersSlots v lz len).2 s hs,
      formatDecimal_congr glyphs ▸ (exec_encodeDecimal_answersSlots v lz len).2 t ht⟩
  · exact ⟨_, (exec_encodeDecimalWithDot_answersSlots v mask lz len).2 s hs,
      formatDecimalWithDot_congr glyphs ▸ (exec_encodeDecimalWithDot_answersSlots v mask lz len).2 t ht⟩

end Sys2Proof.Machine
end
